-- ==== Sys2Proof/Word.lean ====
section
/-!
DEFINITION. The machine word of the virt16 core: 00_scope.md rule R6 (`WORD_BITS` = 16) and
20_memory.md rule R51 (the 16-bit word is the only unit of storage and transfer).
-/

namespace Sys2Proof

/-- An unsigned 16-bit word, "the machine's only scalar type" (rule R126). -/
abbrev Word := BitVec 16

end Sys2Proof
end

