-- ==== Sys2Proof/Config.lean ====
section
/-!
DEFINITION. The parameters of 00_scope.md rule R6. Every one has a value in the spec; the three
OPEN parameters (DEVICE_WRITES, IMAGE_BYTE_ORDER, DISPLAY_COLS and DISPLAY_ROWS) are read by no rule
of the core and are no constants of the model (logs 5 and 8).
-/

namespace Sys2Proof.Config

/-- `MEM_WORDS`: words of memory; addresses 0..32767 exist (rules R6, R50). -/
def memWords : Nat := 32768

/-- `NREGS`: general registers, indices 1..15 (rules R6, R21). -/
def numRegs : Nat := 15

/-- `NPORTS`: peripheral ports, numbers 0..3 (rules R6, R160). -/
def numPorts : Nat := 4

/-- `VIDEO_PORT` (rules R6, R160). -/
def videoPort : Nat := 4

/-- `TIME_PORT` (rules R6, R160). -/
def timePort : Nat := 5

/-- `STACK_BOTTOM` (rules R6, R30). -/
def stackBottom : Nat := 32512

/-- `STACK_TOP` (rules R6, R30). -/
def stackTop : Nat := 32767

/-- `SP_INIT` (rules R6, R30): the value of `sp` at power-on, after `reset` and after a load. -/
def spInit : Word := 32767#16

/-- What a memory word that nothing has written reads as: 0, the power-on and reset contents the
spec states (rules R24, R43, R210). -/
def powerOnWord : Word := 0#16

end Sys2Proof.Config
end

