-- ==== Sys2Proof/Machine/State.lean ====
section
/-!
DEFINITION. The architectural state of 10_state.md rule R20 ("Nothing else is state"), plain data,
with the state after power-on and `reset` (rules R43, R210), and the reasons a step could stop.
-/

namespace Sys2Proof.Machine

/-- The engine state `es` (rule R38). The encoding of rule R39 is `EngineState.code` in Ops.lean; its
value 3 is not representable (93_implementation_defined.md V9). -/
inductive EngineState where
  | running | halted | faulted
deriving DecidableEq, Repr

/-- The fault causes of rule R181, all eight codes of the 3-bit register `fc` (rules R20, R40). -/
inductive FaultCause where
  /-- code 0: no fault recorded -/
  | noFault
  /-- code 1: an address of 32768 or more is used for a memory access -/
  | outOfBounds
  /-- code 2: the opcode word is not in the dispatch table -/
  | invalidOpcode
  /-- code 3: a register-index word is outside 1..15 -/
  | invalidRegister
  /-- code 4: a push or pop would leave the stack region -/
  | stackFault
  /-- code 5: division or modulo by zero -/
  | arithmeticFault
  /-- code 6: the result of a `loadProgram` that does not fit; never stored in `fc` (rule R193) -/
  | programTooLarge
  /-- code 7: a port number that is not legal for the instruction -/
  | invalidPort
deriving DecidableEq, Repr

/-- The faults a step can raise: "one of OutOfBounds, InvalidOpcode, InvalidRegister, InvalidPort,
StackFault, ArithmeticFault" (rule R101). -/
inductive ExecFault where
  | outOfBounds | invalidOpcode | invalidRegister | invalidPort | stackFault | arithmeticFault
deriving DecidableEq, Repr

/-- The four condition flags (rule R32), four independent booleans. -/
structure Flags where
  z : Bool
  g : Bool
  l : Bool
  e : Bool
deriving DecidableEq, Repr

/-- One memory word at its word address (rules R50, R51; log 1). -/
abbrev Cell := Nat × Word

/-- Memory (rule R50) as the list of the words that differ from the power-on word, addresses strictly
rising: the form `Memory.wf` of Ops.lean. -/
abbrev Memory := List Cell

/-- An index into the general registers: `k` stands for the register `R(k+1)`, `x[k+1]` of the spec. -/
abbrev RegIdx := Fin 15

/-- The complete architectural state, rule R20. -/
structure State where
  /-- `mem[0..32767]`, rule R50 -/
  mem : Memory
  /-- `x[1..15]`, rule R21; `x[i]` is element `i - 1` -/
  x : Vector Word 15
  /-- the accumulator, rule R25 -/
  acc : Word
  /-- the program counter, rule R27 -/
  pc : Word
  /-- the stack pointer, rule R30 -/
  sp : Word
  /-- Z, G, L, E, rule R32 -/
  flags : Flags
  /-- `port[0..3]`, rule R35 -/
  port : Vector Word 4
  /-- the display base register, rule R36 -/
  video : Word
  /-- the tick counter, rule R37 -/
  time : Word
  /-- the engine state, rule R38 -/
  es : EngineState
  /-- the fault cause, rule R40 -/
  fc : FaultCause
deriving DecidableEq, Repr

/-- Why a step could end without a next state: NEVER. Every fault of this machine is a transition the
spec describes in full (`es <- Faulted`, `fc <- code`, rules R101 and R187) and is therefore a next
state; no behaviour is left undefined (00_scope.md section 8 item 5). So the type is empty: nothing
raises a fault of the model's own (log 2, safe). -/
inductive Fault where
deriving DecidableEq, Repr

/-- Why a step could be refused. -/
inductive Refusal where
  /-- An instruction without a meaning in exec, by its mnemonic. Raised by no arm: every instruction has
  its meaning. Safe: a refusal proves nothing about the hardware. -/
  | notModelled (mnemonic : String)
deriving DecidableEq, Repr

/-- The machine at power-on and after the `reset` command (rules R43, R210, R211): everything zero,
`es` Running, and `sp` at the top of the stack region (90_conflicts.md C1). -/
def State.reset : State where
  mem := []
  x := Vector.replicate 15 0#16
  acc := 0#16
  pc := 0#16
  sp := Config.spInit
  flags := ⟨false, false, false, false⟩
  port := Vector.replicate 4 0#16
  video := 0#16
  time := 0#16
  es := .running
  fc := .noFault

end Sys2Proof.Machine
end

