-- ==== Sys2Proof/Machine/Flags.lean ====
section
/-!
DEFINITION. The flag function of 43_comparison.md rule R130 and the ALU results of 42_arithmetic.md.
-/

namespace Sys2Proof.Machine

/-- `SetFlagsCompare(a, b)`, rule R130: unsigned comparison; the value under test of Z is the 16-bit
difference (90_conflicts.md C5). -/
def setFlagsCompare (a b : Word) : Flags where
  g := b < a
  l := a < b
  e := a = b
  z := a - b = 0#16

/-- The flags of an arithmetic result: "identically to a compare against zero" (rule R120). -/
def resultFlags (r : Word) : Flags := setFlagsCompare r 0#16

/-- ADD: the low 16 bits of the sum (rules R121, R126). -/
def aluAdd (a b : Word) : Except ExecFault Word := .ok (a + b)

/-- SUB: the low 16 bits of the difference (rules R122, R126). -/
def aluSub (a b : Word) : Except ExecFault Word := .ok (a - b)

/-- MUL: the low 16 bits of the product (rules R123, R126). -/
def aluMul (a b : Word) : Except ExecFault Word := .ok (a * b)

/-- DIV: the unsigned floor quotient; a zero divisor faults (rules R124, R127). -/
def aluDiv (a b : Word) : Except ExecFault Word :=
  if b = 0#16 then .error .arithmeticFault else .ok (a / b)

/-- MOD: the unsigned remainder; a zero divisor faults (rules R125, R127). -/
def aluMod (a b : Word) : Except ExecFault Word :=
  if b = 0#16 then .error .arithmeticFault else .ok (a % b)

end Sys2Proof.Machine
end

