-- ==== Sys2Proof/Machine/Ops.lean ====
section
/-!
DEFINITION. The named operations of the machine: memory, registers, the stack primitives, the
peripheral arbiter, raising a fault, and the commit of an instruction.
-/

namespace Sys2Proof.Machine

/-- `R<i>` has the number `i` in 1..15 (rule R21). -/
def RegIdx.number (r : RegIdx) : Nat := r.val + 1

/-- The numeric encoding of `es` (rule R39). -/
def EngineState.code : EngineState → Nat
  | .running => 0
  | .halted => 1
  | .faulted => 2

/-- The numeric code of a fault cause, the value of the 3-bit register `fc` (rules R20, R181). -/
def FaultCause.code : FaultCause → BitVec 3
  | .noFault => 0#3
  | .outOfBounds => 1#3
  | .invalidOpcode => 2#3
  | .invalidRegister => 3#3
  | .stackFault => 4#3
  | .arithmeticFault => 5#3
  | .programTooLarge => 6#3
  | .invalidPort => 7#3

/-- The cause a raised fault leaves in `fc` (rules R101, R181). -/
def ExecFault.cause : ExecFault → FaultCause
  | .outOfBounds => .outOfBounds
  | .invalidOpcode => .invalidOpcode
  | .invalidRegister => .invalidRegister
  | .invalidPort => .invalidPort
  | .stackFault => .stackFault
  | .arithmeticFault => .arithmeticFault

/-! ### Memory -/

/-- The word at address `a`: the listed one, else the power-on word (rules R43, R50). -/
def Memory.read : Memory → Nat → Word
  | [], _ => Config.powerOnWord
  | c :: m, a => if c.1 = a then c.2 else Memory.read m a

/-- The memory without an entry for address `a`. -/
def Memory.erase (m : Memory) (a : Nat) : Memory := m.filter fun c => c.1 ≠ a

/-- The memory with an entry for `a` put where the rising order of addresses wants it. -/
def Memory.insert : Memory → Nat → Word → Memory
  | [], a, v => [(a, v)]
  | c :: m, a, v => if a < c.1 then (a, v) :: c :: m else c :: Memory.insert m a v

/-- `mem[a] <- v` (rule R53), keeping the canonical form: a word equal to the power-on word is not
listed. -/
def Memory.write (m : Memory) (a : Nat) (v : Word) : Memory :=
  if v = Config.powerOnWord then Memory.erase m a else Memory.insert (Memory.erase m a) a v

/-- Addresses strictly rise from `lo`, each is an address of rule R50, and no listed word equals the
power-on word. -/
def Memory.wfFrom (lo : Nat) : Memory → Bool
  | [] => true
  | c :: m =>
    lo ≤ c.1 && c.1 < Config.memWords && c.2 ≠ Config.powerOnWord && Memory.wfFrom (c.1 + 1) m

/-- The canonical form of a memory: equal memories are equal lists. -/
def Memory.wf (m : Memory) : Bool := Memory.wfFrom 0 m

/-- `mem[a + i] <- words[i]` for every word of a list (rule R213). -/
def Memory.writeWords (m : Memory) (a : Nat) : List Word → Memory
  | [] => m
  | w :: ws => Memory.writeWords (Memory.write m a w) (a + 1) ws

/-- `MemRead(addr, 1)`, rule R52. -/
def memRead (addr : Word) (s : State) : Except ExecFault Word :=
  if Config.memWords ≤ addr.toNat then .error .outOfBounds else .ok (s.mem.read addr.toNat)

/-- `MemWrite(addr, 1, v)`, rule R53. -/
def memWrite (addr v : Word) (s : State) : Except ExecFault State :=
  if Config.memWords ≤ addr.toNat then .error .outOfBounds
  else .ok { s with mem := s.mem.write addr.toNat v }

/-! ### Registers -/

/-- The value of the general register `r` (rules R21, R24). -/
def State.getReg (s : State) (r : RegIdx) : Word := s.x[r]

/-- `x[r] <- v` (rule R21): no other register changes. -/
def State.setReg (s : State) (r : RegIdx) (v : Word) : State := { s with x := s.x.set r v }

/-! ### The stack primitives -/

/-- `Push(v)`, rule R150: the check on integers first, then both writes. The write goes through the
range check of rule R53 like every access (rule R50); inside the stack region it never fails (log 4). -/
def push (v : Word) (s : State) : Except ExecFault State :=
  if (s.sp.toNat : Int) - 1 < Config.stackBottom then .error .stackFault
  else
    match memWrite s.sp v s with
    | .ok t => .ok { t with sp := s.sp - 1#16 }
    | .error f => .error f

/-- `Pop()`, rule R151: the word popped and the state with `sp` moved. The word stays in memory. -/
def pop (s : State) : Except ExecFault (Word × State) :=
  if Config.stackTop < s.sp.toNat + 1 then .error .stackFault
  else
    match memRead (s.sp + 1#16) s with
    | .ok v => .ok (v, { s with sp := s.sp + 1#16 })
    | .error f => .error f

/-! ### The peripheral arbiter -/

/-- A register IN can read (rule R160). -/
inductive BusSource where
  | port (k : Fin 4)
  | video
  | time
deriving DecidableEq, Repr

/-- A register OUT can write (rule R160); `time` is not one (rule R165). -/
inductive BusTarget where
  | port (k : Fin 4)
  | video
deriving DecidableEq, Repr

/-- An arbiter read: the register's current value, changing nothing (rule R162). -/
def busRead (s : State) : BusSource → Word
  | .port k => s.port[k]
  | .video => s.video
  | .time => s.time

/-- An arbiter write: the register's value is replaced and nothing else changes (rule R162). -/
def busWrite (s : State) (v : Word) : BusTarget → State
  | .port k => { s with port := s.port.set k v }
  | .video => { s with video := v }

/-! ### Commit and abort -/

/-- `raise F`, taking a fault (rules R101, R187): `es <- Faulted`, `fc <- code(F)`, nothing else. There
is no return from a fault (rule R188): only `reset` and `loadProgram` leave Faulted (Driver.lean). -/
def raise (f : ExecFault) (s : State) : State := { s with es := .faulted, fc := f.cause }

/-- Commit of a handler that produced no `pc`: `pc <- pc + len` and the tick (rules R99, R100). The
16-bit sum wraps for no instruction that was fetched (rule R29; log 3). -/
def commitNext (len : Nat) (s : State) : State :=
  { s with pc := s.pc + BitVec.ofNat 16 len, time := s.time + 1#16 }

/-- Commit of a handler that produced the new `pc`: that value and the tick (rules R99, R100). -/
def commitJump (target : Word) (s : State) : State :=
  { s with pc := target, time := s.time + 1#16 }

/-- The outcome of an instruction from the state before it and what its handler answered: the
committed state, or the state before with the fault taken (all-or-nothing, rule R98). -/
def outcome (before : State) : Except ExecFault State → Host.Outcome State Fault Refusal
  | .ok after => .next after
  | .error f => .next (raise f before)

end Sys2Proof.Machine
end

