-- ==== Sys2Proof/Syntax.lean ====
section
/-!
DEFINITION. The instructions of 30_encoding.md rule R76, one constructor per row of
spec/opcode_table.json. An operand is the whole operand word as it was fetched (rules R70, R81): the
decoder does not check operand values (rule R77), the handlers do (40_dispatch.md rule R96).
-/

namespace Sys2Proof

/-- One instruction of the virt16 core instruction set, revision S1. -/
inductive Instr where
  /-- HALT, rule R170. -/
  | halt
  /-- LOAD Rd,#imm, rule R110. -/
  | loadRI (d imm : Word)
  /-- LOAD Rd,[addr], rule R111. -/
  | loadRM (d addr : Word)
  /-- LOAD A,#imm, rule R112. -/
  | loadAI (imm : Word)
  /-- LOAD A,[addr], rule R113. -/
  | loadAM (addr : Word)
  /-- STORE Rs,[addr], rule R114. -/
  | storeR (s addr : Word)
  /-- STORE A,[addr], rule R115. -/
  | storeA (addr : Word)
  /-- MOV Rd,Rs, rule R116. -/
  | movRR (d s : Word)
  /-- MOV Rd,A, rule R117. -/
  | movRA (d : Word)
  /-- MOV A,Rs, rule R118. -/
  | movAR (s : Word)
  /-- ADD Ra,Rb, rule R121. -/
  | add (a b : Word)
  /-- SUB Ra,Rb, rule R122. -/
  | sub (a b : Word)
  /-- MUL Ra,Rb, rule R123. -/
  | mul (a b : Word)
  /-- DIV Ra,Rb, rule R124. -/
  | div (a b : Word)
  /-- MOD Ra,Rb, rule R125. -/
  | mod (a b : Word)
  /-- CMP Ra,Rb, rule R131. -/
  | cmp (a b : Word)
  /-- JMP #target, rule R140. -/
  | jmp (target : Word)
  /-- JZ #target, rule R141. -/
  | jz (target : Word)
  /-- JG #target, rule R142. -/
  | jg (target : Word)
  /-- JL #target, rule R143. -/
  | jl (target : Word)
  /-- JE #target, rule R144. -/
  | je (target : Word)
  /-- CALL #target, rule R145. -/
  | call (target : Word)
  /-- RET, rule R146. -/
  | ret
  /-- PUSH Rs, rule R152. -/
  | push (s : Word)
  /-- POP Rd, rule R153. -/
  | pop (d : Word)
  /-- IN Rd,port, rule R163. -/
  | inp (d port : Word)
  /-- OUT Rs,port, rule R164. -/
  | out (s port : Word)
deriving DecidableEq, Repr

end Sys2Proof
end

