-- ==== Sys2Proof/WellFormed.lean ====
section
/-!
DEFINITION. The well-formed instructions: every operand word has a value that is legal for its type
(30_encoding.md rules R72 to R75). An ill-formed instruction still decodes (rule R77); executing it
faults (40_dispatch.md rule R96).
-/

namespace Sys2Proof

/-- A register-index word is legal when its value is in 1..15 (rules R22, R72). -/
def legalReg (w : Word) : Bool := 1 ≤ w.toNat && w.toNat ≤ Config.numRegs

/-- A memory-address word is legal when that address exists (rules R52, R53, R74). -/
def legalAddr (w : Word) : Bool := w.toNat < Config.memWords

/-- The port numbers IN accepts: 0..5 (rules R75, R160). -/
def legalInPort (w : Word) : Bool := w.toNat ≤ Config.timePort

/-- The port numbers OUT accepts: 0..4 (rules R75, R160). -/
def legalOutPort (w : Word) : Bool := w.toNat ≤ Config.videoPort

/-- Every operand word of the instruction is legal for its type. -/
def Instr.wellFormed : Instr → Bool
  | .halt => true
  | .loadRI d _ => legalReg d
  | .loadRM d addr => legalReg d && legalAddr addr
  | .loadAI _ => true
  | .loadAM addr => legalAddr addr
  | .storeR s addr => legalReg s && legalAddr addr
  | .storeA addr => legalAddr addr
  | .movRR d s => legalReg d && legalReg s
  | .movRA d => legalReg d
  | .movAR s => legalReg s
  | .add a b => legalReg a && legalReg b
  | .sub a b => legalReg a && legalReg b
  | .mul a b => legalReg a && legalReg b
  | .div a b => legalReg a && legalReg b
  | .mod a b => legalReg a && legalReg b
  | .cmp a b => legalReg a && legalReg b
  | .jmp _ => true
  | .jz _ => true
  | .jg _ => true
  | .jl _ => true
  | .je _ => true
  | .call _ => true
  | .ret => true
  | .push s => legalReg s
  | .pop d => legalReg d
  | .inp d port => legalReg d && legalInPort port
  | .out s port => legalReg s && legalOutPort port

end Sys2Proof
end

