-- ==== Sys2Proof/Machine/Operands.lean ====
section
/-!
DEFINITION. The operand types that a handler checks before it has any effect (30_encoding.md rules R72,
R75; 40_dispatch.md rule R96). Immediate words need no check (rule R73); a memory address is checked
by the access itself (rule R74).
-/

namespace Sys2Proof.Machine

/-- A register-index word (rules R22, R72): all 16 bits count, only 1..15 is legal. -/
def regOperand (w : Word) : Except ExecFault RegIdx :=
  if h : 1 ≤ w.toNat ∧ w.toNat ≤ 15 then .ok ⟨w.toNat - 1, by omega⟩ else .error .invalidRegister

/-- A pair of register-index words, `w1` checked before `w2` (rules R72, R96). -/
def regPair (w1 w2 : Word) : Except ExecFault (RegIdx × RegIdx) :=
  match regOperand w1 with
  | .error f => .error f
  | .ok r1 =>
    match regOperand w2 with
    | .error f => .error f
    | .ok r2 => .ok (r1, r2)

/-- A port-number word of IN (rules R75, R160, R161). -/
def inPortOperand (w : Word) : Except ExecFault BusSource :=
  if h : w.toNat < 4 then .ok (.port ⟨w.toNat, h⟩)
  else if w.toNat = Config.videoPort then .ok .video
  else if w.toNat = Config.timePort then .ok .time
  else .error .invalidPort

/-- A port-number word of OUT (rules R75, R160, R161): `time` is read-only. -/
def outPortOperand (w : Word) : Except ExecFault BusTarget :=
  if h : w.toNat < 4 then .ok (.port ⟨w.toNat, h⟩)
  else if w.toNat = Config.videoPort then .ok .video
  else .error .invalidPort

end Sys2Proof.Machine
end

