-- ==== Sys2Proof/Machine/Arithmetic.lean ====
section
/-!
DEFINITION. ADD, SUB, MUL, DIV and MOD, 42_arithmetic.md rules R120 to R128.
-/

namespace Sys2Proof.Machine

/-- The shape the five instructions share (rules R120, R128): two general registers in, the result to
the accumulator and to nothing else, the four flags from the result. -/
def arithmetic (alu : Word → Word → Except ExecFault Word) (a b : Word) (s : State) :
    Host.Outcome State Fault Refusal :=
  outcome s <| do
    let (ra, rb) ← regPair a b
    let r ← alu (s.getReg ra) (s.getReg rb)
    return commitNext 3 { s with acc := r, flags := resultFlags r }

/-- ADD Ra,Rb, rule R121. -/
def execAdd (a b : Word) (s : State) : Host.Outcome State Fault Refusal := arithmetic aluAdd a b s

/-- SUB Ra,Rb, rule R122. -/
def execSub (a b : Word) (s : State) : Host.Outcome State Fault Refusal := arithmetic aluSub a b s

/-- MUL Ra,Rb, rule R123. -/
def execMul (a b : Word) (s : State) : Host.Outcome State Fault Refusal := arithmetic aluMul a b s

/-- DIV Ra,Rb, rule R124. -/
def execDiv (a b : Word) (s : State) : Host.Outcome State Fault Refusal := arithmetic aluDiv a b s

/-- MOD Ra,Rb, rule R125. -/
def execMod (a b : Word) (s : State) : Host.Outcome State Fault Refusal := arithmetic aluMod a b s

end Sys2Proof.Machine
end

