-- ==== Sys2Proof/Machine/Comparison.lean ====
section
/-!
DEFINITION. CMP, 43_comparison.md rule R131.
-/

namespace Sys2Proof.Machine

/-- CMP Ra,Rb, rule R131: the flags of the two registers compared, and nothing else. -/
def execCmp (a b : Word) (s : State) : Host.Outcome State Fault Refusal :=
  outcome s <| do
    let (ra, rb) ← regPair a b
    return commitNext 3 { s with flags := setFlagsCompare (s.getReg ra) (s.getReg rb) }

end Sys2Proof.Machine
end

