-- ==== Sys2Proof/Machine/ControlFlow.lean ====
section
/-!
DEFINITION. JMP, JZ, JG, JL, JE, CALL and RET, 44_control_flow.md rules R140 to R147. A target is an
absolute word copied into `pc`; it is not checked here but at the next fetch (rule R147).
-/

namespace Sys2Proof.Machine

/-- A jump taken exactly when the condition holds, else `pc + 2`; the tick either way (rules R141 to
R144). -/
def jumpIf (cond : Bool) (target : Word) (s : State) : Host.Outcome State Fault Refusal :=
  outcome s (.ok (if cond then commitJump target s else commitNext 2 s))

/-- JMP #target, rule R140. -/
def execJmp (target : Word) (s : State) : Host.Outcome State Fault Refusal :=
  outcome s (.ok (commitJump target s))

/-- JZ #target, rule R141. -/
def execJz (target : Word) (s : State) : Host.Outcome State Fault Refusal := jumpIf s.flags.z target s

/-- JG #target, rule R142. -/
def execJg (target : Word) (s : State) : Host.Outcome State Fault Refusal := jumpIf s.flags.g target s

/-- JL #target, rule R143. -/
def execJl (target : Word) (s : State) : Host.Outcome State Fault Refusal := jumpIf s.flags.l target s

/-- JE #target, rule R144. -/
def execJe (target : Word) (s : State) : Host.Outcome State Fault Refusal := jumpIf s.flags.e target s

/-- CALL #target, rule R145: push the address after this instruction, then jump. -/
def execCall (target : Word) (s : State) : Host.Outcome State Fault Refusal :=
  outcome s <| do
    let t ← push (s.pc + 2#16) s
    return commitJump target t

/-- RET, rule R146: pop the return address into `pc`. -/
def execRet (s : State) : Host.Outcome State Fault Refusal :=
  outcome s <| do
    let (v, t) ← pop s
    return commitJump v t

end Sys2Proof.Machine
end

