-- ==== Sys2Proof/Machine/DataMovement.lean ====
section
/-!
DEFINITION. LOAD, STORE and MOV, 41_data_movement.md rules R110 to R118. Each handler makes its checks
in the order of 40_dispatch.md rule R96 and computes its writes from the state before the step; none
touches a flag.
-/

namespace Sys2Proof.Machine

/-- LOAD Rd,#imm, rule R110. -/
def execLoadRI (d imm : Word) (s : State) : Host.Outcome State Fault Refusal :=
  outcome s <| do
    let r ← regOperand d
    return commitNext 3 (s.setReg r imm)

/-- LOAD Rd,[addr], rule R111. -/
def execLoadRM (d addr : Word) (s : State) : Host.Outcome State Fault Refusal :=
  outcome s <| do
    let r ← regOperand d
    let v ← memRead addr s
    return commitNext 3 (s.setReg r v)

/-- LOAD A,#imm, rule R112. -/
def execLoadAI (imm : Word) (s : State) : Host.Outcome State Fault Refusal :=
  outcome s (.ok (commitNext 2 { s with acc := imm }))

/-- LOAD A,[addr], rule R113. -/
def execLoadAM (addr : Word) (s : State) : Host.Outcome State Fault Refusal :=
  outcome s <| do
    let v ← memRead addr s
    return commitNext 2 { s with acc := v }

/-- STORE Rs,[addr], rule R114. -/
def execStoreR (src addr : Word) (s : State) : Host.Outcome State Fault Refusal :=
  outcome s <| do
    let r ← regOperand src
    let t ← memWrite addr (s.getReg r) s
    return commitNext 3 t

/-- STORE A,[addr], rule R115. -/
def execStoreA (addr : Word) (s : State) : Host.Outcome State Fault Refusal :=
  outcome s <| do
    let t ← memWrite addr s.acc s
    return commitNext 2 t

/-- MOV Rd,Rs, rule R116. -/
def execMovRR (d src : Word) (s : State) : Host.Outcome State Fault Refusal :=
  outcome s <| do
    let (rd, rs) ← regPair d src
    return commitNext 3 (s.setReg rd (s.getReg rs))

/-- MOV Rd,A, rule R117. -/
def execMovRA (d : Word) (s : State) : Host.Outcome State Fault Refusal :=
  outcome s <| do
    let r ← regOperand d
    return commitNext 2 (s.setReg r s.acc)

/-- MOV A,Rs, rule R118. -/
def execMovAR (src : Word) (s : State) : Host.Outcome State Fault Refusal :=
  outcome s <| do
    let r ← regOperand src
    return commitNext 2 { s with acc := s.getReg r }

end Sys2Proof.Machine
end

