-- ==== Sys2Proof/Machine/Halt.lean ====
section
/-!
DEFINITION. HALT, 47_halt.md rule R170.
-/

namespace Sys2Proof.Machine

/-- HALT (rule R170): `es <- Halted`; then the engine's own commit, `pc` + 1 and the tick
(90_conflicts.md C3). -/
def execHalt (s : State) : Host.Outcome State Fault Refusal :=
  outcome s (.ok (commitNext 1 { s with es := .halted }))

end Sys2Proof.Machine
end

