-- ==== Sys2Proof/Machine/Io.lean ====
section
/-!
DEFINITION. IN and OUT, 46_io.md rules R163 and R164.
-/

namespace Sys2Proof.Machine

/-- IN Rd,port, rule R163: the register's value before this step's tick. -/
def execIn (d port : Word) (s : State) : Host.Outcome State Fault Refusal :=
  outcome s <| do
    let r ← regOperand d
    let p ← inPortOperand port
    return commitNext 3 (s.setReg r (busRead s p))

/-- OUT Rs,port, rule R164. -/
def execOut (src port : Word) (s : State) : Host.Outcome State Fault Refusal :=
  outcome s <| do
    let r ← regOperand src
    let p ← outPortOperand port
    return commitNext 3 (busWrite s (s.getReg r) p)

end Sys2Proof.Machine
end

