-- ==== Sys2Proof/Machine/Stack.lean ====
section
/-!
DEFINITION. PUSH and POP, 45_stack.md rules R152 and R153.
-/

namespace Sys2Proof.Machine

/-- PUSH Rs, rule R152. -/
def execPush (src : Word) (s : State) : Host.Outcome State Fault Refusal :=
  outcome s <| do
    let r ← regOperand src
    let t ← push (s.getReg r) s
    return commitNext 2 t

/-- POP Rd, rule R153. -/
def execPop (d : Word) (s : State) : Host.Outcome State Fault Refusal :=
  outcome s <| do
    let r ← regOperand d
    let (v, t) ← pop s
    return commitNext 2 (t.setReg r v)

end Sys2Proof.Machine
end

