-- ==== Sys2Proof/Machine/Dispatch.lean ====
section
/-!
DEFINITION. The dispatch multiplexer of 40_dispatch.md rule R97: one handler per instruction.
-/

namespace Sys2Proof.Machine

def exec (i : Instr) (s : State) : Host.Outcome State Fault Refusal :=
  match i with
  | .halt => Sys2Proof.Machine.execHalt s
  | .loadRI d imm => Sys2Proof.Machine.execLoadRI d imm s
  | .loadRM d addr => Sys2Proof.Machine.execLoadRM d addr s
  | .loadAI imm => Sys2Proof.Machine.execLoadAI imm s
  | .loadAM addr => Sys2Proof.Machine.execLoadAM addr s
  | .storeR src addr => Sys2Proof.Machine.execStoreR src addr s
  | .storeA addr => Sys2Proof.Machine.execStoreA addr s
  | .movRR d src => Sys2Proof.Machine.execMovRR d src s
  | .movRA d => Sys2Proof.Machine.execMovRA d s
  | .movAR src => Sys2Proof.Machine.execMovAR src s
  | .add a b => Sys2Proof.Machine.execAdd a b s
  | .sub a b => Sys2Proof.Machine.execSub a b s
  | .mul a b => Sys2Proof.Machine.execMul a b s
  | .div a b => Sys2Proof.Machine.execDiv a b s
  | .mod a b => Sys2Proof.Machine.execMod a b s
  | .cmp a b => Sys2Proof.Machine.execCmp a b s
  | .jmp target => Sys2Proof.Machine.execJmp target s
  | .jz target => Sys2Proof.Machine.execJz target s
  | .jg target => Sys2Proof.Machine.execJg target s
  | .jl target => Sys2Proof.Machine.execJl target s
  | .je target => Sys2Proof.Machine.execJe target s
  | .call target => Sys2Proof.Machine.execCall target s
  | .ret => Sys2Proof.Machine.execRet s
  | .push src => Sys2Proof.Machine.execPush src s
  | .pop d => Sys2Proof.Machine.execPop d s
  | .inp d port => Sys2Proof.Machine.execIn d port s
  | .out src port => Sys2Proof.Machine.execOut src port s

end Sys2Proof.Machine
end

