-- ==== Sys2Proof/Decode.lean ====
section
/-!
DEFINITION. The decoder of 30_encoding.md rule R77 on the words that stand at `pc`, and after it the
encoder, both written from the opcode map of rule R76. Every field is a whole word (rules R70, R81).
-/

namespace Sys2Proof

/-- Why the decoder gives no instruction. -/
inductive DecodeError where
  /-- There is no word at `pc`: rule R77 step 1, the opcode fetch of rule R92. -/
  | noOpcodeWord
  /-- The opcode word is not in the dispatch table: rule R77 step 3, rules R79 and R93. -/
  | invalidOpcode
  /-- An operand word would lie past the end of memory: rule R77 step 5, rule R95. -/
  | operandsPastEnd
deriving DecidableEq, Repr

/-- Format N: no operand word. -/
def decode0 (i : Instr) (ws : List Word) : Except DecodeError (Instr × List Word) :=
  .ok (i, ws)

/-- Formats R, I and M: one operand word. -/
def decode1 (f : Word → Instr) : List Word → Except DecodeError (Instr × List Word)
  | w1 :: ws => .ok (f w1, ws)
  | [] => .error .operandsPastEnd

/-- Formats RR, RI, RM and RP: two operand words, or the instruction is refused without using any. -/
def decode2 (f : Word → Word → Instr) : List Word → Except DecodeError (Instr × List Word)
  | w1 :: w2 :: ws => .ok (f w1 w2, ws)
  | _ => .error .operandsPastEnd

/-- The decoder (rule R77) on the memory words from `pc` up to the end of memory: the instruction
and the words after it. The opcode is all 16 bits of the first word and is recognised before the
operand words are looked for (rules R76, R77, R93). -/
def decode : List Word → Except DecodeError (Instr × List Word)
  | [] => .error .noOpcodeWord
  | op :: ws =>
    match op with
    | 0x0000#16 => decode0 .halt ws
    | 0x0001#16 => decode2 .loadRI ws
    | 0x0002#16 => decode2 .loadRM ws
    | 0x0003#16 => decode1 .loadAI ws
    | 0x0004#16 => decode1 .loadAM ws
    | 0x0005#16 => decode2 .storeR ws
    | 0x0006#16 => decode1 .storeA ws
    | 0x0007#16 => decode2 .movRR ws
    | 0x0008#16 => decode1 .movRA ws
    | 0x0009#16 => decode1 .movAR ws
    | 0x000A#16 => decode2 .add ws
    | 0x000B#16 => decode2 .sub ws
    | 0x000C#16 => decode2 .mul ws
    | 0x000D#16 => decode2 .div ws
    | 0x000E#16 => decode2 .mod ws
    | 0x000F#16 => decode2 .cmp ws
    | 0x0010#16 => decode1 .jmp ws
    | 0x0011#16 => decode1 .jz ws
    | 0x0012#16 => decode1 .jg ws
    | 0x0013#16 => decode1 .jl ws
    | 0x0014#16 => decode1 .je ws
    | 0x0015#16 => decode1 .call ws
    | 0x0016#16 => decode0 .ret ws
    | 0x0017#16 => decode1 .push ws
    | 0x0018#16 => decode1 .pop ws
    | 0x0019#16 => decode2 .inp ws
    | 0x001A#16 => decode2 .out ws
    | _ => .error .invalidOpcode

/-- The words of an instruction, opcode first, then `w1`, then `w2` (rules R71, R76, R82). -/
def encode : Instr → List Word
  | .halt => [0x0000#16]
  | .loadRI d imm => [0x0001#16, d, imm]
  | .loadRM d addr => [0x0002#16, d, addr]
  | .loadAI imm => [0x0003#16, imm]
  | .loadAM addr => [0x0004#16, addr]
  | .storeR s addr => [0x0005#16, s, addr]
  | .storeA addr => [0x0006#16, addr]
  | .movRR d s => [0x0007#16, d, s]
  | .movRA d => [0x0008#16, d]
  | .movAR s => [0x0009#16, s]
  | .add a b => [0x000A#16, a, b]
  | .sub a b => [0x000B#16, a, b]
  | .mul a b => [0x000C#16, a, b]
  | .div a b => [0x000D#16, a, b]
  | .mod a b => [0x000E#16, a, b]
  | .cmp a b => [0x000F#16, a, b]
  | .jmp target => [0x0010#16, target]
  | .jz target => [0x0011#16, target]
  | .jg target => [0x0012#16, target]
  | .jl target => [0x0013#16, target]
  | .je target => [0x0014#16, target]
  | .call target => [0x0015#16, target]
  | .ret => [0x0016#16]
  | .push s => [0x0017#16, s]
  | .pop d => [0x0018#16, d]
  | .inp d port => [0x0019#16, d, port]
  | .out s port => [0x001A#16, s, port]

/-- The length in words of an instruction: the length column of rule R76 (rules R78, R94). -/
def Instr.len : Instr → Nat
  | .halt | .ret => 1
  | .loadAI _ | .loadAM _ | .storeA _ | .movRA _ | .movAR _ => 2
  | .jmp _ | .jz _ | .jg _ | .jl _ | .je _ | .call _ | .push _ | .pop _ => 2
  | .loadRI _ _ | .loadRM _ _ | .storeR _ _ | .movRR _ _ => 3
  | .add _ _ | .sub _ _ | .mul _ _ | .div _ _ | .mod _ _ | .cmp _ _ => 3
  | .inp _ _ | .out _ _ => 3

/-- The three words of an instruction given as one number, numbered as spec/opcode_table.json numbers
its bits: bit 0 is the least significant bit of the first word, bits 31..16 are the second word, bits
47..32 the third; every bit from `nbits` up is 0. -/
def tableWords (nbits w : Nat) : List Word :=
  let v := w % 2 ^ nbits
  [BitVec.ofNat 16 v, BitVec.ofNat 16 (v / 2 ^ 16), BitVec.ofNat 16 (v / 2 ^ 32)]

/-- The instruction the decoder reads from the words of `tableWords`. -/
def decodeTableWord (nbits w : Nat) : Option Instr :=
  match decode (tableWords nbits w) with
  | .ok (i, _) => some i
  | .error _ => none

end Sys2Proof
end

