-- ==== Sys2Proof/Machine/Fetch.lean ====
section
/-!
DEFINITION. The fetch of 40_dispatch.md rules R92, R93 and R95 over the decoder of 30_encoding.md rule
R77, and the placing of an instruction where the fetch finds it.
-/

namespace Sys2Proof.Machine

/-- The memory words at `a`, `a + 1`, …, at most `n` of them, ending at the end of memory: no address
of 32768 or more is read and none wraps to 0 (rules R29, R52). -/
def Memory.wordsFrom (m : Memory) : Nat → Nat → List Word
  | 0, _ => []
  | n + 1, a => if a < Config.memWords then m.read a :: Memory.wordsFrom m n (a + 1) else []

/-- The words the fetch can see at `pc`: the longest instruction has three (rule R70; log 12). -/
def fetchWords (s : State) : List Word := s.mem.wordsFrom 3 s.pc.toNat

/-- The fault of a decode that gives no instruction (rules R92, R93, R95). -/
def decodeFault : DecodeError → ExecFault
  | .noOpcodeWord => .outOfBounds
  | .invalidOpcode => .invalidOpcode
  | .operandsPastEnd => .outOfBounds

/-- Fetch and decode at `pc` (rules R77, R90): a pure function of `pc` and memory. -/
def fetchDecode (s : State) : Except ExecFault Instr :=
  match decode (fetchWords s) with
  | .ok (i, _) => .ok i
  | .error e => .error (decodeFault e)

/-- The fetch address used by `placeWords`: `pc` where three words fit from there, else 0. -/
def placeAddr (s : State) : Nat := if s.pc.toNat + 2 < Config.memWords then s.pc.toNat else 0

/-- Those words stored where the next step fetches: from `pc`, or from 0 with `pc` set to 0 where the
longest instruction does not fit at `pc`; the machine Running, or nothing is fetched (rule R91; log 9). -/
def placeWords (s : State) (ws : List Word) : State :=
  { s with
    mem := s.mem.writeWords (placeAddr s) ws
    pc := BitVec.ofNat 16 (placeAddr s)
    es := .running
    fc := .noFault }

end Sys2Proof.Machine
end

