-- ==== Sys2Proof/Machine/Step.lean ====
section
/-!
DEFINITION. The step of 40_dispatch.md rule R90: one `execute` command.
-/

namespace Sys2Proof.Machine

/-- One `execute` command (rule R90): nothing unless Running (rule R91); else fetch and decode, which
may fault (rules R92 to R95), then the handler of the instruction (rule R97). Only
here is `es` looked at (log 7). -/
def step (s : State) : Host.Outcome State Fault Refusal :=
  match s.es with
  | .halted => .next s
  | .faulted => .next s
  | .running =>
    match fetchDecode s with
    | .error f => .next (raise f s)
    | .ok i => exec i s

/-- The instruction of `tableWords nbits w` stored where the next step fetches it. -/
def State.withFetchWord (s : State) (nbits w : Nat) : State := placeWords s (tableWords nbits w)

end Sys2Proof.Machine
end

