-- ==== Sys2Proof/Machine/Driver.lean ====
section
/-!
DEFINITION. What acts on the core from outside: the three commands of 00_scope.md rule R9
(70_reset_and_hazards.md rules R210 to R215, R218), the device writes of 46_io.md rule R166, and the
word the display collaborator reads (rule R12).
-/

namespace Sys2Proof.Machine

/-- What a command gives back beside the state (rules R102, R214, R218). -/
inductive Reply where
  | done
  | programTooLarge
deriving DecidableEq, Repr

/-- The `reset` command (rule R211): the power-on state, whatever the state was. -/
def resetCommand (_ : State) : State := State.reset

/-- The state a successful load leaves (rule R213): the image written, memory outside it kept, and
everything else initialised. -/
def loaded (words : List Word) (base : Nat) (s : State) : State :=
  { State.reset with mem := s.mem.writeWords base words, pc := BitVec.ofNat 16 base }

/-- `loadProgram(words, baseAddress)` (rules R213 to R215): the size check on unbounded integers, first;
if it fails nothing changes. -/
def loadProgram (words : List Word) (base : Nat) (s : State) : State × Reply :=
  if base + words.length ≤ Config.memWords then (loaded words base s, .done)
  else (s, .programTooLarge)

/-- The code of the failure reply (rules R181, R193): a result of the command, never stored. -/
def Reply.cause : Reply → FaultCause
  | .done => .noFault
  | .programTooLarge => .programTooLarge

/-- The three commands of the driver (rule R9). -/
inductive Command where
  | reset
  | loadProgram (words : List Word) (base : Nat)
  | execute
deriving DecidableEq, Repr

/-- One command, carried out as one atomic transition in any engine state (rules R8, R9, R185). -/
def perform (c : Command) (s : State) : Host.Outcome (State × Reply) Fault Refusal :=
  match c with
  | .reset => .next (resetCommand s, .done)
  | .loadProgram words base => .next (loadProgram words base s)
  | .execute =>
    match step s with
    | .next t => .next (t, .done)
    | .fault f => .fault f
    | .refused r => .refused r

/-- `DeviceWrite(k, v)` (rule R166): only `port[k]` changes. -/
def deviceWrite (k : Fin 4) (v : Word) (s : State) : State := { s with port := s.port.set k v }

/-- What can happen to the core between two states an observer sees (rules R8, R103): a command, or, if
the platform parameter DEVICE_WRITES allows it, a device write. -/
inductive Event where
  | command (c : Command)
  | device (k : Fin 4) (v : Word)
deriving DecidableEq, Repr

/-- One event. -/
def occur (e : Event) (s : State) : Host.Outcome State Fault Refusal :=
  match e with
  | .device k v => .next (deviceWrite k v s)
  | .command c =>
    match perform c s with
    | .next (t, _) => .next t
    | .fault f => .fault f
    | .refused r => .refused r

/-- The events of a list, one after another: commands never overlap (rules R9, R225). -/
def occurAll : List Event → State → Host.Outcome State Fault Refusal
  | [], s => .next s
  | e :: es, s =>
    match occur e s with
    | .next t => occurAll es t
    | .fault f => .fault f
    | .refused r => .refused r

/-- The character code the collaborator reads in the `k`-th word of the frame buffer: the low byte
`w[7:0]` of the memory word at `video + k` (rule R12), none where no memory is (log 8). -/
def displayCode (s : State) (k : Nat) : Option (BitVec 8) :=
  if s.video.toNat + k < Config.memWords then some ((s.mem.read (s.video.toNat + k)).setWidth 8)
  else none

end Sys2Proof.Machine
end

