-- ==== Sys2Proof/Safety.lean ====
section
/-!
DEFINITION. What counts as a safe run, and the tables of the spec in the terms claims use: the invariant
of reachable states, the write-enables of 40_dispatch.md rule R97, the faults of 60_exceptions.md rule
R183 in the order of rule R96, and the jumps of rule R99. These tables are written from the spec's own
tables, not from the meanings.
-/

namespace Sys2Proof.Machine

/-- No fault has stopped the machine (rules R38, R186). -/
def Safe (s : State) : Prop := s.es ≠ .faulted

/-- The machine stopped by a fault: `es` and `fc`, nothing else (rule R101). -/
def faultedWith (s : State) (c : FaultCause) : State := { s with es := .faulted, fc := c }

/-- The flag combinations of rules R34 and R132: all false before the first flag-writing instruction, else
one of the three rows (greater, less, equal). -/
def Flags.legal (f : Flags) : Bool :=
  (!f.z && !f.g && !f.l && !f.e) || (!f.z && f.g && !f.l && !f.e) ||
    (!f.z && !f.g && f.l && !f.e) || (f.z && !f.g && !f.l && f.e)

/-- The invariant of the machine's reachable states. -/
structure Inv (s : State) : Prop where
  /-- memory is in canonical form, with no word above address 32767 (rule R50) -/
  mem_wf : s.mem.wf = true
  /-- `STACK_BOTTOM <= sp` (rule R31) -/
  sp_low : 32512 ≤ s.sp.toNat
  /-- `sp <= STACK_TOP` (rule R31) -/
  sp_high : s.sp.toNat ≤ 32767
  /-- at most one of G, L, E, and Z = E (rule R34) -/
  flags_legal : s.flags.legal = true
  /-- `fc` is NoFault exactly while `es` is not Faulted (rule R40) -/
  fc_faulted : s.es = .faulted ↔ s.fc ≠ .noFault
  /-- code 6 is never in `fc` (rules R40, R193) -/
  fc_never_too_large : s.fc ≠ .programTooLarge
  /-- in Halted `pc` is the address after the HALT that stopped the machine (rules R27, R170) -/
  halted_after_halt : s.es = .halted →
    1 ≤ s.pc.toNat ∧ s.pc.toNat ≤ 32768 ∧ s.mem.read (s.pc.toNat - 1) = 0#16

/-- A state that some sequence of commands and device writes leads to from power-on. -/
def Reachable (s : State) : Prop := ∃ events, occurAll events State.reset = .next s

/-! ### The opcode map's length column -/

/-- The length of the instruction with the opcode `op` in 0..26, by the formats of rules R71 and R78: 1
for HALT and RET, 2 for formats R, I and M, 3 for formats RR, RI, RM and RP. -/
def lenOfOpcode (op : Nat) : Nat :=
  if op ∈ [0x00, 0x16] then 1
  else if op ∈ [0x03, 0x04, 0x06, 0x08, 0x09, 0x10, 0x11, 0x12, 0x13, 0x14, 0x15, 0x17, 0x18] then 2
  else 3

/-! ### The write-enables of rule R97 -/

/-- The register-index word of the general register the instruction may write. -/
def destWord : Instr → Option Word
  | .loadRI d _ | .loadRM d _ | .movRR d _ | .movRA d | .inp d _ | .pop d => some d
  | .halt | .ret | .loadAI _ | .loadAM _ | .storeR _ _ | .storeA _ | .movAR _ => none
  | .add _ _ | .sub _ _ | .mul _ _ | .div _ _ | .mod _ _ | .cmp _ _ => none
  | .jmp _ | .jz _ | .jg _ | .jl _ | .je _ | .call _ | .push _ | .out _ _ => none

/-- The instructions that may write `acc`. -/
def writesAcc : Instr → Bool
  | .loadAI _ | .loadAM _ | .movAR _ => true
  | .add _ _ | .sub _ _ | .mul _ _ | .div _ _ | .mod _ _ => true
  | .halt | .ret | .loadRI _ _ | .loadRM _ _ | .storeR _ _ | .storeA _ | .movRR _ _ | .movRA _ => false
  | .cmp _ _ | .jmp _ | .jz _ | .jg _ | .jl _ | .je _ | .call _ => false
  | .push _ | .pop _ | .inp _ _ | .out _ _ => false

/-- The instructions that may write the flags (rule R33). -/
def writesFlags : Instr → Bool
  | .add _ _ | .sub _ _ | .mul _ _ | .div _ _ | .mod _ _ | .cmp _ _ => true
  | .halt | .ret | .loadRI _ _ | .loadRM _ _ | .loadAI _ | .loadAM _ => false
  | .storeR _ _ | .storeA _ | .movRR _ _ | .movRA _ | .movAR _ => false
  | .jmp _ | .jz _ | .jg _ | .jl _ | .je _ | .call _ => false
  | .push _ | .pop _ | .inp _ _ | .out _ _ => false

/-- The instructions that may write `sp` (rule R30). -/
def writesSp : Instr → Bool
  | .call _ | .ret | .push _ | .pop _ => true
  | .halt | .loadRI _ _ | .loadRM _ _ | .loadAI _ | .loadAM _ => false
  | .storeR _ _ | .storeA _ | .movRR _ _ | .movRA _ | .movAR _ => false
  | .add _ _ | .sub _ _ | .mul _ _ | .div _ _ | .mod _ _ | .cmp _ _ => false
  | .jmp _ | .jz _ | .jg _ | .jl _ | .je _ | .inp _ _ | .out _ _ => false

/-- The address of the one memory word the instruction may write: the address word of a STORE, `sp` for
PUSH and CALL (rules R54, R97). -/
def storedAddr (i : Instr) (s : State) : Option Nat :=
  match i with
  | .storeR _ addr | .storeA addr => some addr.toNat
  | .push _ | .call _ => some s.sp.toNat
  | .halt | .ret | .loadRI _ _ | .loadRM _ _ | .loadAI _ | .loadAM _ => none
  | .movRR _ _ | .movRA _ | .movAR _ => none
  | .add _ _ | .sub _ _ | .mul _ _ | .div _ _ | .mod _ _ | .cmp _ _ => none
  | .jmp _ | .jz _ | .jg _ | .jl _ | .je _ | .pop _ | .inp _ _ | .out _ _ => none

/-- The number of the port-space register the instruction may write: the port word of OUT. -/
def outPort : Instr → Option Nat
  | .out _ port => some port.toNat
  | .halt | .ret | .loadRI _ _ | .loadRM _ _ | .loadAI _ | .loadAM _ => none
  | .storeR _ _ | .storeA _ | .movRR _ _ | .movRA _ | .movAR _ => none
  | .add _ _ | .sub _ _ | .mul _ _ | .div _ _ | .mod _ _ | .cmp _ _ => none
  | .jmp _ | .jz _ | .jg _ | .jl _ | .je _ | .call _ | .push _ | .pop _ | .inp _ _ => none

/-! ### The jumps of rule R99 -/

/-- The `pc` the handler produces, if it produces one: JMP, CALL and RET always, JZ, JG, JL and JE when
their flag is true. -/
def jumpTarget (i : Instr) (s : State) : Option Word :=
  match i with
  | .jmp target | .call target => some target
  | .jz target => if s.flags.z then some target else none
  | .jg target => if s.flags.g then some target else none
  | .jl target => if s.flags.l then some target else none
  | .je target => if s.flags.e then some target else none
  | .ret => some (s.mem.read (s.sp.toNat + 1))
  | .halt | .loadRI _ _ | .loadRM _ _ | .loadAI _ | .loadAM _ => none
  | .storeR _ _ | .storeA _ | .movRR _ _ | .movRA _ | .movAR _ => none
  | .add _ _ | .sub _ _ | .mul _ _ | .div _ _ | .mod _ _ | .cmp _ _ => none
  | .push _ | .pop _ | .inp _ _ | .out _ _ => none

/-! ### The faults of rule R183 in the order of rule R96 -/

/-- The check of a register-index word. -/
def regFault (w : Word) : Option ExecFault :=
  if 1 ≤ w.toNat ∧ w.toNat ≤ 15 then none else some .invalidRegister

/-- The check of a data-address word. -/
def addrFault (w : Word) : Option ExecFault := if w.toNat < 32768 then none else some .outOfBounds

/-- The check of a port-number word against the highest legal one. -/
def portFault (highest : Nat) (w : Word) : Option ExecFault :=
  if w.toNat ≤ highest then none else some .invalidPort

/-- The value of the register a legal register-index word selects. -/
def regValue (w : Word) (s : State) : Word := (s.x.toList[w.toNat - 1]?).getD 0#16

/-- The check of a divisor. -/
def divisorFault (w : Word) (s : State) : Option ExecFault :=
  if regValue w s = 0#16 then some .arithmeticFault else none

/-- The check of a push. -/
def fullFault (s : State) : Option ExecFault := if s.sp.toNat = 32512 then some .stackFault else none

/-- The check of a pop. -/
def emptyFault (s : State) : Option ExecFault := if s.sp.toNat = 32767 then some .stackFault else none

/-- The first check of the handler that fails, with `sp` in the stack region. -/
def firstFault (i : Instr) (s : State) : Option ExecFault :=
  match i with
  | .halt | .loadAI _ | .jmp _ | .jz _ | .jg _ | .jl _ | .je _ => none
  | .loadRI d _ => regFault d
  | .loadRM d addr => regFault d <|> addrFault addr
  | .loadAM addr | .storeA addr => addrFault addr
  | .storeR src addr => regFault src <|> addrFault addr
  | .movRR d src => regFault d <|> regFault src
  | .movRA r | .movAR r => regFault r
  | .add a b | .sub a b | .mul a b | .cmp a b => regFault a <|> regFault b
  | .div a b | .mod a b => regFault a <|> regFault b <|> divisorFault b s
  | .call _ => fullFault s
  | .ret => emptyFault s
  | .push src => regFault src <|> fullFault s
  | .pop d => regFault d <|> emptyFault s
  | .inp d port => regFault d <|> portFault 5 port
  | .out src port => regFault src <|> portFault 4 port

/-! ### Pushing several words -/

/-- Words pushed one after another, the first of the list first (rule R150). -/
def pushAll : List Word → State → Except ExecFault State
  | [], s => .ok s
  | v :: vs, s =>
    match push v s with
    | .ok t => pushAll vs t
    | .error f => .error f

end Sys2Proof.Machine
end

