-- ==== Sys2Proof/Certificates/Slice0/Obligations.lean ====
section
/-!
DEFINITION. The statements for the provers. Results are written in the integers and booleans of the
spec's rules, not through the operations the meanings use. A next state given as a record update says the
frame with it: every field not named is as before.
-/

open Sys2Proof Sys2Proof.Machine

/-! ## Power-on, load, devices -/

/-- Rules R210 and R211: the power-on state, and the `reset` command that restores it from any state. -/
def Obligations.ResetGivesPowerOnState : Prop :=
  (∀ a, State.reset.mem.read a = 0#16) ∧ (∀ r : RegIdx, State.reset.x[r] = 0#16) ∧
    State.reset.acc = 0#16 ∧ State.reset.pc = 0#16 ∧ State.reset.sp.toNat = 32767 ∧
    State.reset.flags = { z := false, g := false, l := false, e := false } ∧
    (∀ k : Fin 4, State.reset.port[k] = 0#16) ∧ State.reset.video = 0#16 ∧ State.reset.time = 0#16 ∧
    State.reset.es = .running ∧ State.reset.fc = .noFault ∧
    ∀ s, perform .reset s = .next (State.reset, .done)

/-- The invariant holds at power-on. -/
def Obligations.ResetMeetsInvariant : Prop := Inv State.reset

/-- Rule R213: a load that fits writes the image, keeps memory outside it, and initialises the rest. -/
def Obligations.LoadProgramInitialises : Prop :=
  ∀ (words : List Word) (base : Nat) (s : State), base + words.length ≤ 32768 →
    ∃ t, perform (.loadProgram words base) s = .next (t, .done) ∧
      (∀ (i : Nat) (h : i < words.length), t.mem.read (base + i) = words[i]) ∧
      (∀ a, a < base ∨ base + words.length ≤ a → t.mem.read a = s.mem.read a) ∧
      (∀ r : RegIdx, t.x[r] = 0#16) ∧ t.acc = 0#16 ∧
      t.flags = { z := false, g := false, l := false, e := false } ∧
      (∀ k : Fin 4, t.port[k] = 0#16) ∧ t.video = 0#16 ∧ t.time = 0#16 ∧
      t.pc.toNat = base ∧ t.sp.toNat = 32767 ∧ t.es = .running ∧ t.fc = .noFault

/-- Rule R214: a load that does not fit changes nothing and answers ProgramTooLarge, code 6. -/
def Obligations.LoadProgramTooLargeChangesNothing : Prop :=
  (∀ (words : List Word) (base : Nat) (s : State), 32768 < base + words.length →
    perform (.loadProgram words base) s = .next (s, .programTooLarge)) ∧
  Reply.programTooLarge.cause.code = 6#3

/-- After a load the first step runs the instruction the image begins with (rules R213, R90). -/
def Obligations.LoadedProgramRunsItsFirstInstruction : Prop :=
  ∀ (i : Instr) (rest : List Word) (base : Nat) (s t : State),
    base + (encode i ++ rest).length ≤ 32768 →
    perform (.loadProgram (encode i ++ rest) base) s = .next (t, .done) →
    t.pc.toNat = base ∧ step t = exec i t

/-- A device write between steps changes its port register and nothing else (rule R166). -/
def Obligations.DeviceWriteChangesOnePort : Prop :=
  ∀ (k : Fin 4) (v : Word) (s : State), ∃ t, occur (.device k v) s = .next t ∧
    t.port[k] = v ∧ (∀ j : Fin 4, j ≠ k → t.port[j] = s.port[j]) ∧ t = { s with port := t.port }

/-! ## Memory, registers, flags, stack primitives -/

/-- Rules R52 and R53: the range check of both accesses, what a read gives after a write, and that a
write changes one word. -/
def Obligations.MemoryReadsBackWhatIsWritten : Prop :=
  (∀ (addr : Word) (s : State), 32768 ≤ addr.toNat → memRead addr s = .error .outOfBounds) ∧
  (∀ (addr : Word) (s : State), addr.toNat < 32768 → memRead addr s = .ok (s.mem.read addr.toNat)) ∧
  (∀ (addr v : Word) (s : State), 32768 ≤ addr.toNat → memWrite addr v s = .error .outOfBounds) ∧
  (∀ (addr v : Word) (s : State), addr.toNat < 32768 →
    ∃ t, memWrite addr v s = .ok t ∧ memRead addr t = .ok v ∧
      (∀ a, a ≠ addr.toNat → t.mem.read a = s.mem.read a) ∧ t = { s with mem := t.mem })

/-- In canonical form, memories that read alike at every address are the same list. -/
def Obligations.MemoryIsDeterminedByItsReads : Prop :=
  ∀ m m' : Memory, m.wf = true → m'.wf = true → (∀ a, m.read a = m'.read a) → m = m'

/-- Rule R22: a register-index word selects a register exactly when its value, all 16 bits of it, is in
1..15, and every other word is InvalidRegister. -/
def Obligations.RegisterWordSelectsOneToFifteen : Prop :=
  (∀ (w : Word) (r : RegIdx), regOperand w = .ok r ↔ w.toNat = r.val + 1) ∧
  (∀ w : Word, ¬ (1 ≤ w.toNat ∧ w.toNat ≤ 15) → regOperand w = .error .invalidRegister)

/-- Writing one general register changes that one only (rule R21). -/
def Obligations.RegistersAreIndependent : Prop :=
  ∀ (s : State) (r q : RegIdx) (v : Word),
    (s.setReg r v).getReg q = (if r = q then v else s.getReg q) ∧
    s.setReg r v = { s with x := (s.setReg r v).x }

/-- Rule R130: the flag function, on unsigned values; exactly one of G, L and E; Z equals E. -/
def Obligations.CompareSetsFlags : Prop :=
  ∀ a b : Word,
    setFlagsCompare a b =
      { g := decide (a.toNat > b.toNat), l := decide (a.toNat < b.toNat),
        e := decide (a.toNat = b.toNat), z := decide (((a.toNat : Int) - b.toNat) % 65536 = 0) } ∧
    (setFlagsCompare a b).z = (setFlagsCompare a b).e ∧
    ((setFlagsCompare a b).g.toNat + (setFlagsCompare a b).l.toNat + (setFlagsCompare a b).e.toNat = 1)

/-- Rules R150 and R151: push and pop inside the stack region, the faults at its ends, and that a pop
after a push gives the word back and restores `sp`. -/
def Obligations.StackPrimitives : Prop :=
  (∀ (v : Word) (s : State), 32513 ≤ s.sp.toNat → s.sp.toNat ≤ 32767 →
    push v s = .ok { s with mem := s.mem.write s.sp.toNat v, sp := s.sp - 1#16 }) ∧
  (∀ (v : Word) (s : State), s.sp.toNat < 32513 → push v s = .error .stackFault) ∧
  (∀ s : State, s.sp.toNat < 32767 →
    pop s = .ok (s.mem.read (s.sp.toNat + 1), { s with sp := s.sp + 1#16 })) ∧
  (∀ s : State, 32767 ≤ s.sp.toNat → pop s = .error .stackFault) ∧
  (∀ (v : Word) (s t : State), s.sp.toNat ≤ 32767 → push v s = .ok t →
    pop t = .ok (v, { t with sp := s.sp }))

/-- The stack holds 255 words and no more (rule R154): from the empty stack, up to 255 pushes succeed,
each word at its place below the top of the region, and one more push faults. -/
def Obligations.StackHolds255Words : Prop :=
  ∀ (vs : List Word) (s : State), s.sp.toNat = 32767 → vs.length ≤ 255 →
    ∃ t, pushAll vs s = .ok t ∧ t.sp.toNat = 32767 - vs.length ∧
      (∀ (i : Nat) (h : i < vs.length), t.mem.read (32767 - i) = vs[i]) ∧
      (vs.length = 255 → ∀ v, push v t = .error .stackFault)

/-! ## Encoding -/

/-- The ten words of the spec's example in rule R82 decode, one instruction after another. -/
def Obligations.ExampleProgramDecodes : Prop :=
  (∀ rest, decode ([0x0001#16, 0x0001#16, 0x0005#16] ++ rest) = .ok (.loadRI 1#16 5#16, rest)) ∧
  (∀ rest, decode ([0x0001#16, 0x0002#16, 0x0003#16] ++ rest) = .ok (.loadRI 2#16 3#16, rest)) ∧
  (∀ rest, decode ([0x000A#16, 0x0001#16, 0x0002#16] ++ rest) = .ok (.add 1#16 2#16, rest)) ∧
  (∀ rest, decode ([0x0000#16] ++ rest) = .ok (.halt, rest))

/-- Decoding and encoding agree, for every instruction and every operand word, and every word list has one
meaning. -/
def Obligations.EncodeAndDecodeAgree : Prop :=
  (∀ (i : Instr) (rest : List Word), decode (encode i ++ rest) = .ok (i, rest)) ∧
  (∀ (ws rest : List Word) (i : Instr), decode ws = .ok (i, rest) → ws = encode i ++ rest)

/-- Rule R78: the length is a function of the opcode word alone, with the values of the opcode map, and
rule R77's outcome for every opcode word: illegal, too few words left, or an instruction. -/
def Obligations.OpcodeDecidesLength : Prop :=
  (∀ (op : Word) (ws : List Word), 0x001A < op.toNat → decode (op :: ws) = .error .invalidOpcode) ∧
  (∀ (op : Word) (ws : List Word), op.toNat ≤ 0x001A → ws.length + 1 < lenOfOpcode op.toNat →
    decode (op :: ws) = .error .operandsPastEnd) ∧
  (∀ (op : Word) (ws : List Word), op.toNat ≤ 0x001A → lenOfOpcode op.toNat ≤ ws.length + 1 →
    ∃ i rest, decode (op :: ws) = .ok (i, rest) ∧ i.len = lenOfOpcode op.toNat ∧
      rest.length + lenOfOpcode op.toNat = ws.length + 1)

/-! ## Data movement -/

/-- Rule R110, LOAD Rd,#imm. -/
def Obligations.LoadImmediateToRegister : Prop :=
  (∀ d imm rest, decode (0x0001#16 :: d :: imm :: rest) = .ok (.loadRI d imm, rest)) ∧
  (∀ (d imm : Word) (r : RegIdx) (s : State), d.toNat = r.val + 1 →
    exec (.loadRI d imm) s = .next { s with x := s.x.set r imm, pc := s.pc + 3#16, time := s.time + 1#16 }) ∧
  (∀ (d imm : Word) (s : State), ¬ (1 ≤ d.toNat ∧ d.toNat ≤ 15) →
    exec (.loadRI d imm) s = .next { s with es := .faulted, fc := .invalidRegister })

/-- Rule R111, LOAD Rd,[addr]. -/
def Obligations.LoadMemoryToRegister : Prop :=
  (∀ d addr rest, decode (0x0002#16 :: d :: addr :: rest) = .ok (.loadRM d addr, rest)) ∧
  (∀ (d addr : Word) (r : RegIdx) (s : State), d.toNat = r.val + 1 → addr.toNat < 32768 →
    exec (.loadRM d addr) s = .next
      { s with x := s.x.set r (s.mem.read addr.toNat), pc := s.pc + 3#16, time := s.time + 1#16 }) ∧
  (∀ (d addr : Word) (s : State), ¬ (1 ≤ d.toNat ∧ d.toNat ≤ 15) →
    exec (.loadRM d addr) s = .next { s with es := .faulted, fc := .invalidRegister }) ∧
  (∀ (d addr : Word) (s : State), 1 ≤ d.toNat → d.toNat ≤ 15 → 32768 ≤ addr.toNat →
    exec (.loadRM d addr) s = .next { s with es := .faulted, fc := .outOfBounds })

/-- Rule R112, LOAD A,#imm. -/
def Obligations.LoadImmediateToAccumulator : Prop :=
  (∀ imm rest, decode (0x0003#16 :: imm :: rest) = .ok (.loadAI imm, rest)) ∧
  (∀ (imm : Word) (s : State),
    exec (.loadAI imm) s = .next { s with acc := imm, pc := s.pc + 2#16, time := s.time + 1#16 })

/-- Rule R113, LOAD A,[addr]. -/
def Obligations.LoadMemoryToAccumulator : Prop :=
  (∀ addr rest, decode (0x0004#16 :: addr :: rest) = .ok (.loadAM addr, rest)) ∧
  (∀ (addr : Word) (s : State), addr.toNat < 32768 →
    exec (.loadAM addr) s = .next
      { s with acc := s.mem.read addr.toNat, pc := s.pc + 2#16, time := s.time + 1#16 }) ∧
  (∀ (addr : Word) (s : State), 32768 ≤ addr.toNat →
    exec (.loadAM addr) s = .next { s with es := .faulted, fc := .outOfBounds })

/-- Rule R114, STORE Rs,[addr]: the word is stored, every other word stays, and nothing else changes but
`pc` and `time`. -/
def Obligations.StoreRegister : Prop :=
  (∀ src addr rest, decode (0x0005#16 :: src :: addr :: rest) = .ok (.storeR src addr, rest)) ∧
  (∀ (src addr : Word) (r : RegIdx) (s : State), src.toNat = r.val + 1 → addr.toNat < 32768 →
    ∃ t, exec (.storeR src addr) s = .next t ∧ t.mem.read addr.toNat = s.x[r] ∧
      (∀ a, a ≠ addr.toNat → t.mem.read a = s.mem.read a) ∧
      t = { s with mem := t.mem, pc := s.pc + 3#16, time := s.time + 1#16 }) ∧
  (∀ (src addr : Word) (s : State), ¬ (1 ≤ src.toNat ∧ src.toNat ≤ 15) →
    exec (.storeR src addr) s = .next { s with es := .faulted, fc := .invalidRegister }) ∧
  (∀ (src addr : Word) (s : State), 1 ≤ src.toNat → src.toNat ≤ 15 → 32768 ≤ addr.toNat →
    exec (.storeR src addr) s = .next { s with es := .faulted, fc := .outOfBounds })

/-- Rule R115, STORE A,[addr]. -/
def Obligations.StoreAccumulator : Prop :=
  (∀ addr rest, decode (0x0006#16 :: addr :: rest) = .ok (.storeA addr, rest)) ∧
  (∀ (addr : Word) (s : State), addr.toNat < 32768 →
    ∃ t, exec (.storeA addr) s = .next t ∧ t.mem.read addr.toNat = s.acc ∧
      (∀ a, a ≠ addr.toNat → t.mem.read a = s.mem.read a) ∧
      t = { s with mem := t.mem, pc := s.pc + 2#16, time := s.time + 1#16 }) ∧
  (∀ (addr : Word) (s : State), 32768 ≤ addr.toNat →
    exec (.storeA addr) s = .next { s with es := .faulted, fc := .outOfBounds })

/-- Rule R116, MOV Rd,Rs. -/
def Obligations.MoveRegisterToRegister : Prop :=
  (∀ d src rest, decode (0x0007#16 :: d :: src :: rest) = .ok (.movRR d src, rest)) ∧
  (∀ (d src : Word) (rd rs : RegIdx) (s : State), d.toNat = rd.val + 1 → src.toNat = rs.val + 1 →
    exec (.movRR d src) s = .next
      { s with x := s.x.set rd s.x[rs], pc := s.pc + 3#16, time := s.time + 1#16 }) ∧
  (∀ (d src : Word) (s : State),
    ¬ (1 ≤ d.toNat ∧ d.toNat ≤ 15) ∨ ¬ (1 ≤ src.toNat ∧ src.toNat ≤ 15) →
    exec (.movRR d src) s = .next { s with es := .faulted, fc := .invalidRegister })

/-- Rule R117, MOV Rd,A. -/
def Obligations.MoveAccumulatorToRegister : Prop :=
  (∀ d rest, decode (0x0008#16 :: d :: rest) = .ok (.movRA d, rest)) ∧
  (∀ (d : Word) (r : RegIdx) (s : State), d.toNat = r.val + 1 →
    exec (.movRA d) s = .next { s with x := s.x.set r s.acc, pc := s.pc + 2#16, time := s.time + 1#16 }) ∧
  (∀ (d : Word) (s : State), ¬ (1 ≤ d.toNat ∧ d.toNat ≤ 15) →
    exec (.movRA d) s = .next { s with es := .faulted, fc := .invalidRegister })

/-- Rule R118, MOV A,Rs. -/
def Obligations.MoveRegisterToAccumulator : Prop :=
  (∀ src rest, decode (0x0009#16 :: src :: rest) = .ok (.movAR src, rest)) ∧
  (∀ (src : Word) (r : RegIdx) (s : State), src.toNat = r.val + 1 →
    exec (.movAR src) s = .next { s with acc := s.x[r], pc := s.pc + 2#16, time := s.time + 1#16 }) ∧
  (∀ (src : Word) (s : State), ¬ (1 ≤ src.toNat ∧ src.toNat ≤ 15) →
    exec (.movAR src) s = .next { s with es := .faulted, fc := .invalidRegister })

/-! ## Arithmetic and comparison -/

/-- Rules R121, R122 and R123: ADD, SUB and MUL compute on integers, keep the low 16 bits in `acc`, set
the four flags from that result and change nothing else. -/
def Obligations.AddSubMulTruncate : Prop :=
  (∀ a b rest, decode (0x000A#16 :: a :: b :: rest) = .ok (.add a b, rest) ∧
    decode (0x000B#16 :: a :: b :: rest) = .ok (.sub a b, rest) ∧
    decode (0x000C#16 :: a :: b :: rest) = .ok (.mul a b, rest)) ∧
  (∀ (a b : Word) (ra rb : RegIdx) (s : State), a.toNat = ra.val + 1 → b.toNat = rb.val + 1 →
    (∃ r : Word, r.toNat = (s.x[ra].toNat + s.x[rb].toNat) % 65536 ∧
      exec (.add a b) s = .next { s with
        acc := r
        flags := { z := decide (r.toNat = 0), g := decide (r.toNat ≠ 0), l := false, e := decide (r.toNat = 0) }
        pc := s.pc + 3#16, time := s.time + 1#16 }) ∧
    (∃ r : Word, (r.toNat : Int) = ((s.x[ra].toNat : Int) - s.x[rb].toNat) % 65536 ∧
      exec (.sub a b) s = .next { s with
        acc := r
        flags := { z := decide (r.toNat = 0), g := decide (r.toNat ≠ 0), l := false, e := decide (r.toNat = 0) }
        pc := s.pc + 3#16, time := s.time + 1#16 }) ∧
    (∃ r : Word, r.toNat = (s.x[ra].toNat * s.x[rb].toNat) % 65536 ∧
      exec (.mul a b) s = .next { s with
        acc := r
        flags := { z := decide (r.toNat = 0), g := decide (r.toNat ≠ 0), l := false, e := decide (r.toNat = 0) }
        pc := s.pc + 3#16, time := s.time + 1#16 })) ∧
  (∀ (a b : Word) (s : State), ¬ (1 ≤ a.toNat ∧ a.toNat ≤ 15) ∨ ¬ (1 ≤ b.toNat ∧ b.toNat ≤ 15) →
    exec (.add a b) s = .next { s with es := .faulted, fc := .invalidRegister } ∧
    exec (.sub a b) s = .next { s with es := .faulted, fc := .invalidRegister } ∧
    exec (.mul a b) s = .next { s with es := .faulted, fc := .invalidRegister })

/-- Rules R124, R125 and R127: DIV and MOD by a non-zero divisor give the floor quotient and the remainder;
by zero they take ArithmeticFault and write nothing else. -/
def Obligations.DivModUnsigned : Prop :=
  (∀ a b rest, decode (0x000D#16 :: a :: b :: rest) = .ok (.div a b, rest) ∧
    decode (0x000E#16 :: a :: b :: rest) = .ok (.mod a b, rest)) ∧
  (∀ (a b : Word) (ra rb : RegIdx) (s : State), a.toNat = ra.val + 1 → b.toNat = rb.val + 1 →
    s.x[rb].toNat ≠ 0 →
    ∃ q m : Word, s.x[ra].toNat = q.toNat * s.x[rb].toNat + m.toNat ∧ m.toNat < s.x[rb].toNat ∧
      exec (.div a b) s = .next { s with
        acc := q
        flags := { z := decide (q.toNat = 0), g := decide (q.toNat ≠ 0), l := false, e := decide (q.toNat = 0) }
        pc := s.pc + 3#16, time := s.time + 1#16 } ∧
      exec (.mod a b) s = .next { s with
        acc := m
        flags := { z := decide (m.toNat = 0), g := decide (m.toNat ≠ 0), l := false, e := decide (m.toNat = 0) }
        pc := s.pc + 3#16, time := s.time + 1#16 }) ∧
  (∀ (a b : Word) (ra rb : RegIdx) (s : State), a.toNat = ra.val + 1 → b.toNat = rb.val + 1 →
    s.x[rb].toNat = 0 →
    exec (.div a b) s = .next { s with es := .faulted, fc := .arithmeticFault } ∧
    exec (.mod a b) s = .next { s with es := .faulted, fc := .arithmeticFault }) ∧
  (∀ (a b : Word) (s : State), ¬ (1 ≤ a.toNat ∧ a.toNat ≤ 15) ∨ ¬ (1 ≤ b.toNat ∧ b.toNat ≤ 15) →
    exec (.div a b) s = .next { s with es := .faulted, fc := .invalidRegister } ∧
    exec (.mod a b) s = .next { s with es := .faulted, fc := .invalidRegister })

/-- Rule R131, CMP Ra,Rb. -/
def Obligations.CompareRegisters : Prop :=
  (∀ a b rest, decode (0x000F#16 :: a :: b :: rest) = .ok (.cmp a b, rest)) ∧
  (∀ (a b : Word) (ra rb : RegIdx) (s : State), a.toNat = ra.val + 1 → b.toNat = rb.val + 1 →
    exec (.cmp a b) s = .next { s with
      flags := { z := decide (s.x[ra].toNat = s.x[rb].toNat), g := decide (s.x[ra].toNat > s.x[rb].toNat)
                 l := decide (s.x[ra].toNat < s.x[rb].toNat), e := decide (s.x[ra].toNat = s.x[rb].toNat) }
      pc := s.pc + 3#16, time := s.time + 1#16 }) ∧
  (∀ (a b : Word) (s : State), ¬ (1 ≤ a.toNat ∧ a.toNat ≤ 15) ∨ ¬ (1 ≤ b.toNat ∧ b.toNat ≤ 15) →
    exec (.cmp a b) s = .next { s with es := .faulted, fc := .invalidRegister })

/-! ## Control flow -/

/-- Rule R140, JMP #target: any target word is taken. -/
def Obligations.JumpAlways : Prop :=
  (∀ target rest, decode (0x0010#16 :: target :: rest) = .ok (.jmp target, rest)) ∧
  (∀ (target : Word) (s : State),
    exec (.jmp target) s = .next { s with pc := target, time := s.time + 1#16 })

/-- Rules R141 to R144: JZ, JG, JL and JE jump exactly when their flag is true, else fall through. -/
def Obligations.ConditionalJumpsReadTheirFlag : Prop :=
  (∀ target rest, decode (0x0011#16 :: target :: rest) = .ok (.jz target, rest) ∧
    decode (0x0012#16 :: target :: rest) = .ok (.jg target, rest) ∧
    decode (0x0013#16 :: target :: rest) = .ok (.jl target, rest) ∧
    decode (0x0014#16 :: target :: rest) = .ok (.je target, rest)) ∧
  (∀ (target : Word) (s : State),
    exec (.jz target) s = .next
      { s with pc := if s.flags.z then target else s.pc + 2#16, time := s.time + 1#16 } ∧
    exec (.jg target) s = .next
      { s with pc := if s.flags.g then target else s.pc + 2#16, time := s.time + 1#16 } ∧
    exec (.jl target) s = .next
      { s with pc := if s.flags.l then target else s.pc + 2#16, time := s.time + 1#16 } ∧
    exec (.je target) s = .next
      { s with pc := if s.flags.e then target else s.pc + 2#16, time := s.time + 1#16 })

/-- Rule R145, CALL #target: the return address at the old `sp`, every other word as before. -/
def Obligations.CallPushesReturnAddress : Prop :=
  (∀ target rest, decode (0x0015#16 :: target :: rest) = .ok (.call target, rest)) ∧
  (∀ (target : Word) (s : State), 32513 ≤ s.sp.toNat → s.sp.toNat ≤ 32767 →
    ∃ t, exec (.call target) s = .next t ∧ t.mem.read s.sp.toNat = s.pc + 2#16 ∧
      (∀ a, a ≠ s.sp.toNat → t.mem.read a = s.mem.read a) ∧
      t = { s with mem := t.mem, sp := s.sp - 1#16, pc := target, time := s.time + 1#16 }) ∧
  (∀ (target : Word) (s : State), s.sp.toNat = 32512 →
    exec (.call target) s = .next { s with es := .faulted, fc := .stackFault })

/-- Rule R146, RET. -/
def Obligations.ReturnPopsIntoPc : Prop :=
  (∀ rest, decode (0x0016#16 :: rest) = .ok (.ret, rest)) ∧
  (∀ s : State, s.sp.toNat < 32767 →
    exec .ret s = .next
      { s with sp := s.sp + 1#16, pc := s.mem.read (s.sp.toNat + 1), time := s.time + 1#16 }) ∧
  (∀ s : State, s.sp.toNat = 32767 →
    exec .ret s = .next { s with es := .faulted, fc := .stackFault })

/-- A RET right after a CALL comes back to the instruction after the CALL with the old `sp` (rules R145,
R146). -/
def Obligations.ReturnUndoesCall : Prop :=
  ∀ (target : Word) (s t : State), s.sp.toNat ≤ 32767 → exec (.call target) s = .next t →
    t.es ≠ .faulted →
    exec .ret t = .next { t with sp := s.sp, pc := s.pc + 2#16, time := s.time + 2#16 }

/-! ## Stack instructions -/

/-- Rule R152, PUSH Rs. -/
def Obligations.PushStoresRegister : Prop :=
  (∀ src rest, decode (0x0017#16 :: src :: rest) = .ok (.push src, rest)) ∧
  (∀ (src : Word) (r : RegIdx) (s : State), src.toNat = r.val + 1 →
    32513 ≤ s.sp.toNat → s.sp.toNat ≤ 32767 →
    ∃ t, exec (.push src) s = .next t ∧ t.mem.read s.sp.toNat = s.x[r] ∧
      (∀ a, a ≠ s.sp.toNat → t.mem.read a = s.mem.read a) ∧
      t = { s with mem := t.mem, sp := s.sp - 1#16, pc := s.pc + 2#16, time := s.time + 1#16 }) ∧
  (∀ (src : Word) (s : State), ¬ (1 ≤ src.toNat ∧ src.toNat ≤ 15) →
    exec (.push src) s = .next { s with es := .faulted, fc := .invalidRegister }) ∧
  (∀ (src : Word) (s : State), 1 ≤ src.toNat → src.toNat ≤ 15 → s.sp.toNat = 32512 →
    exec (.push src) s = .next { s with es := .faulted, fc := .stackFault })

/-- Rule R153, POP Rd. -/
def Obligations.PopLoadsRegister : Prop :=
  (∀ d rest, decode (0x0018#16 :: d :: rest) = .ok (.pop d, rest)) ∧
  (∀ (d : Word) (r : RegIdx) (s : State), d.toNat = r.val + 1 → s.sp.toNat < 32767 →
    exec (.pop d) s = .next
      { s with sp := s.sp + 1#16, x := s.x.set r (s.mem.read (s.sp.toNat + 1))
               pc := s.pc + 2#16, time := s.time + 1#16 }) ∧
  (∀ (d : Word) (s : State), ¬ (1 ≤ d.toNat ∧ d.toNat ≤ 15) →
    exec (.pop d) s = .next { s with es := .faulted, fc := .invalidRegister }) ∧
  (∀ (d : Word) (s : State), 1 ≤ d.toNat → d.toNat ≤ 15 → s.sp.toNat = 32767 →
    exec (.pop d) s = .next { s with es := .faulted, fc := .stackFault })

/-! ## I/O and HALT -/

/-- Rule R163, IN Rd,port: `time` is read before this step's tick. -/
def Obligations.InReadsPortSpace : Prop :=
  (∀ d port rest, decode (0x0019#16 :: d :: port :: rest) = .ok (.inp d port, rest)) ∧
  (∀ (d port : Word) (r : RegIdx) (s : State), d.toNat = r.val + 1 →
    (∀ k : Fin 4, port.toNat = k.val → exec (.inp d port) s = .next
      { s with x := s.x.set r s.port[k], pc := s.pc + 3#16, time := s.time + 1#16 }) ∧
    (port.toNat = 4 → exec (.inp d port) s = .next
      { s with x := s.x.set r s.video, pc := s.pc + 3#16, time := s.time + 1#16 }) ∧
    (port.toNat = 5 → exec (.inp d port) s = .next
      { s with x := s.x.set r s.time, pc := s.pc + 3#16, time := s.time + 1#16 }) ∧
    (5 < port.toNat → exec (.inp d port) s = .next { s with es := .faulted, fc := .invalidPort })) ∧
  (∀ (d port : Word) (s : State), ¬ (1 ≤ d.toNat ∧ d.toNat ≤ 15) →
    exec (.inp d port) s = .next { s with es := .faulted, fc := .invalidRegister })

/-- Rule R164, OUT Rs,port: ports 0..3 and `video`; port 5, `time`, is read-only. -/
def Obligations.OutWritesPortSpace : Prop :=
  (∀ src port rest, decode (0x001A#16 :: src :: port :: rest) = .ok (.out src port, rest)) ∧
  (∀ (src port : Word) (r : RegIdx) (s : State), src.toNat = r.val + 1 →
    (∀ k : Fin 4, port.toNat = k.val → exec (.out src port) s = .next
      { s with port := s.port.set k s.x[r], pc := s.pc + 3#16, time := s.time + 1#16 }) ∧
    (port.toNat = 4 → exec (.out src port) s = .next
      { s with video := s.x[r], pc := s.pc + 3#16, time := s.time + 1#16 }) ∧
    (4 < port.toNat → exec (.out src port) s = .next { s with es := .faulted, fc := .invalidPort })) ∧
  (∀ (src port : Word) (s : State), ¬ (1 ≤ src.toNat ∧ src.toNat ≤ 15) →
    exec (.out src port) s = .next { s with es := .faulted, fc := .invalidRegister })

/-- Rule R170, HALT: `es` Halted, `pc` and `time` advance like for any one-word instruction, and every
later `execute` changes nothing. -/
def Obligations.HaltStopsTheMachine : Prop :=
  (∀ rest, decode (0x0000#16 :: rest) = .ok (.halt, rest)) ∧
  (∀ s : State, exec .halt s =
    .next { s with es := .halted, pc := s.pc + 1#16, time := s.time + 1#16 }) ∧
  (∀ s t : State, exec .halt s = .next t → step t = .next t)

/-! ## The step -/

/-- A step runs the instruction whose words stand at `pc` (rules R77, R90), given by the decoder or by the
encoded words themselves. -/
def Obligations.StepRunsTheDecodedInstruction : Prop :=
  (∀ (i : Instr) (rest : List Word) (s : State), s.es = .running →
    decode (fetchWords s) = .ok (i, rest) → step s = exec i s) ∧
  (∀ (i : Instr) (s : State), s.es = .running → s.pc.toNat + i.len ≤ 32768 →
    (∀ (k : Nat) (h : k < (encode i).length), s.mem.read (s.pc.toNat + k) = (encode i)[k]) →
    step s = exec i s)

/-- An instruction placed by withFetchWord is what the very next step runs. -/
def Obligations.PlacedInstructionRunsNext : Prop :=
  ∀ (s : State) (nbits w : Nat) (i : Instr), decodeTableWord nbits w = some i →
    step (s.withFetchWord nbits w) = exec i (s.withFetchWord nbits w)

/-- Rule R91: `execute` on a machine that is not Running changes nothing. -/
def Obligations.StepIsIdleUnlessRunning : Prop :=
  ∀ s : State, s.es ≠ .running → step s = .next s

/-- The same for any number of further `execute` commands (rules R91, R186). -/
def Obligations.EndOfRunIsStable : Prop :=
  ∀ (n : Nat) (s : State), s.es ≠ .running → Host.Core.run Sys2Proof.core n s = .next s

/-- Rules R92, R93 and R95: the three faults of fetch and decode and their order. -/
def Obligations.FetchAndDecodeFaults : Prop :=
  ∀ s : State, s.es = .running →
    (32768 ≤ s.pc.toNat → step s = .next { s with es := .faulted, fc := .outOfBounds }) ∧
    (s.pc.toNat < 32768 → 0x001A < (s.mem.read s.pc.toNat).toNat →
      step s = .next { s with es := .faulted, fc := .invalidOpcode }) ∧
    (s.pc.toNat < 32768 → (s.mem.read s.pc.toNat).toNat ≤ 0x001A →
      32768 < s.pc.toNat + lenOfOpcode (s.mem.read s.pc.toNat).toNat →
      step s = .next { s with es := .faulted, fc := .outOfBounds })

/-- Every step, every meaning and every command ends, in a next state: nothing refuses and nothing stops
without a next state (rules R90, R104). -/
def Obligations.EveryStepAnswersNext : Prop :=
  (∀ (i : Instr) (s : State), ∃ t, exec i s = .next t) ∧ (∀ s : State, ∃ t, step s = .next t) ∧
    (∀ (events : List Event) (s : State), ∃ t, occurAll events s = .next t)

/-- Rules R96 and R183: after the fetch and decode faults, the handler's checks in their order; the first that fails
decides the fault, and if none fails the instruction completes. -/
def Obligations.FirstFailingCheckDecides : Prop :=
  ∀ s : State, s.es = .running → 32512 ≤ s.sp.toNat → s.sp.toNat ≤ 32767 →
    (∀ e, decode (fetchWords s) = .error e → step s = .next (faultedWith s (decodeFault e).cause)) ∧
    (∀ i rest, decode (fetchWords s) = .ok (i, rest) →
      (∀ f, firstFault i s = some f → step s = .next (faultedWith s f.cause)) ∧
      (firstFault i s = none → ∃ t, step s = .next t ∧ t.es ≠ .faulted ∧ t.fc = s.fc))

/-- An ill-formed instruction always takes an operand fault; a well-formed one can only take StackFault or
ArithmeticFault (rules R72, R74, R75, R96). -/
def Obligations.WellFormedMeansLegalOperands : Prop :=
  ∀ (i : Instr) (s t : State), s.es = .running → 32512 ≤ s.sp.toNat → s.sp.toNat ≤ 32767 →
    exec i s = .next t →
    (i.wellFormed = false →
      t.es = .faulted ∧ (t.fc = .invalidRegister ∨ t.fc = .invalidPort ∨ t.fc = .outOfBounds)) ∧
    (i.wellFormed = true → t.es = .faulted → t.fc = .stackFault ∨ t.fc = .arithmeticFault)

/-- Rule R101: a step that faults changes `es` and `fc` and nothing else, and the cause is one of those a step
can raise. -/
def Obligations.FaultChangesOnlyEsAndFc : Prop :=
  ∀ s t : State, s.es = .running → step s = .next t → t.es = .faulted →
    t = { s with es := .faulted, fc := t.fc } ∧ ∃ f : ExecFault, t.fc = f.cause

/-- After a fault the faulting instruction can be decoded again, and run again it faults the same way (rules
R101, R182). -/
def Obligations.FaultIsReproducible : Prop :=
  ∀ s t : State, s.es = .running → s.fc = .noFault → step s = .next t → t.es = .faulted →
    fetchWords t = fetchWords s ∧ step { t with es := .running, fc := .noFault } = .next t

/-- Rule R97: every state element an instruction is not listed for stays as it was, whether it completes or
faults; the stored word's address is computed by the table's expression. -/
def Obligations.WriteEnablesFrame : Prop :=
  ∀ (i : Instr) (s t : State), exec i s = .next t →
    (∀ a, storedAddr i s ≠ some a → t.mem.read a = s.mem.read a) ∧
    (∀ r : RegIdx, (∀ d, destWord i = some d → d.toNat ≠ r.val + 1) → t.x[r] = s.x[r]) ∧
    (writesAcc i = false → t.acc = s.acc) ∧ (writesFlags i = false → t.flags = s.flags) ∧
    (writesSp i = false → t.sp = s.sp) ∧
    (∀ k : Fin 4, outPort i ≠ some k.val → t.port[k] = s.port[k]) ∧
    (outPort i ≠ some 4 → t.video = s.video) ∧
    (i ≠ .halt → t.es = .faulted ∨ t.es = s.es) ∧ (t.es ≠ .faulted → t.fc = s.fc)

/-- Rule R99: a completed step writes the `pc` its handler produced, else advances it by the length, without
truncation. -/
def Obligations.PcAtCommit : Prop :=
  ∀ (i : Instr) (rest : List Word) (s t : State), s.es = .running →
    decode (fetchWords s) = .ok (i, rest) → step s = .next t → t.es ≠ .faulted →
    (∀ target, jumpTarget i s = some target → t.pc = target) ∧
    (jumpTarget i s = none → t.pc.toNat = s.pc.toNat + i.len ∧ t.pc.toNat ≤ 32768)

/-- `pc` leaves memory only by a jump, call or return to such an address, or by the advance from an instruction
whose last word is at 32767, to exactly 32768 (rule R29). -/
def Obligations.PcLeavesMemoryOnlySo : Prop :=
  ∀ s t : State, s.es = .running → s.pc.toNat < 32768 → step s = .next t → 32768 ≤ t.pc.toNat →
    ∃ i rest, decode (fetchWords s) = .ok (i, rest) ∧
      (jumpTarget i s = some t.pc ∨ (t.pc.toNat = 32768 ∧ s.pc.toNat + i.len = 32768))

/-- Rule R100: `time` counts every step that completes, modulo 65536, and no other; IN from port 5 reads the
value before. -/
def Obligations.TimeTicksOncePerCompletedStep : Prop :=
  (∀ s t : State, step s = .next t →
    (s.es = .running → t.es ≠ .faulted → t.time.toNat = (s.time.toNat + 1) % 65536) ∧
    (s.es = .running → t.es = .faulted → t.time = s.time) ∧ (s.es ≠ .running → t.time = s.time)) ∧
  (∀ (d : Word) (r : RegIdx) (s t : State), d.toNat = r.val + 1 → exec (.inp d 5#16) s = .next t →
    t.x[r] = s.time)

/-- While the machine keeps running, `time` counts the steps of the run (rules R37, R195). -/
def Obligations.TimeCountsTheStepsOfARun : Prop :=
  ∀ (n : Nat) (s t : State), Host.Core.run Sys2Proof.core n s = .next t → t.es = .running →
    t.time.toNat = (s.time.toNat + n) % 65536

/-- The transitions of rule R185. -/
def Obligations.EngineStateMachine : Prop :=
  (∀ s t : State, s.es = .running → step s = .next t →
    (t.es = .halted ↔ ∃ rest, decode (fetchWords s) = .ok (.halt, rest)) ∧
    (t.es = .faulted → t.fc ≠ .noFault) ∧ (t.es ≠ .faulted → t.fc = s.fc)) ∧
  (∀ s t : State, s.es ≠ .running → step s = .next t → t = s) ∧
  (∀ (c : Command) (s t : State) (r : Reply), perform c s = .next (t, r) →
    (c = .reset → t.es = .running) ∧
    (∀ words base, c = .loadProgram words base →
      (r = .done → t.es = .running) ∧ (r = .programTooLarge → t = s)))

/-- A stored word is what the next fetch at its address sees (rule R61). -/
def Obligations.StoredWordIsFetched : Prop :=
  ∀ (src addr : Word) (r : RegIdx) (s t u : State), src.toNat = r.val + 1 → addr.toNat < 32768 →
    exec (.storeR src addr) s = .next t → u.mem = t.mem → u.pc = addr →
    (fetchWords u).head? = some s.x[r]

/-- Only IN and OUT touch the port registers and `video`: any other instruction does the same whatever they
hold, and leaves them as they are (rules R97, R162). -/
def Obligations.PortsAreIsolated : Prop :=
  ∀ (i : Instr) (s t : State) (p : Vector Word 4) (v : Word),
    (∀ d port, i ≠ .inp d port) → (∀ src port, i ≠ .out src port) → exec i s = .next t →
    exec i { s with port := p, video := v } = .next { t with port := p, video := v }

/-- The numeric codes of `es` and `fc` (rules R39, R181). -/
def Obligations.EngineAndFaultCodes : Prop :=
  EngineState.running.code = 0 ∧ EngineState.halted.code = 1 ∧ EngineState.faulted.code = 2 ∧
  FaultCause.noFault.code = 0#3 ∧ FaultCause.outOfBounds.code = 1#3 ∧
  FaultCause.invalidOpcode.code = 2#3 ∧ FaultCause.invalidRegister.code = 3#3 ∧
  FaultCause.stackFault.code = 4#3 ∧ FaultCause.arithmeticFault.code = 5#3 ∧
  FaultCause.programTooLarge.code = 6#3 ∧ FaultCause.invalidPort.code = 7#3 ∧
  (∀ f g : ExecFault, f.cause.code = g.cause.code → f = g)

/-! ## Invariants -/

/-- Every step keeps the invariant. -/
def Obligations.StepKeepsInvariant : Prop :=
  ∀ s t : State, Inv s → step s = .next t → Inv t

/-- So does every command and every device write, so that it holds of every reachable state. -/
def Obligations.ReachableStatesMeetInvariant : Prop :=
  (∀ (events : List Event) (s t : State), Inv s → occurAll events s = .next t → Inv t) ∧
  (∀ s : State, Reachable s → Inv s)
end

