-- ==== Sys2Proof/Laws/Memory.lean ====
section
/-!
SUPPORT. The laws of memory: what a read gives after a write, and that every operation keeps the
canonical form.
-/

namespace Sys2Proof.Machine

@[simp] theorem Memory.read_nil (a : Nat) : Memory.read [] a = 0#16 := rfl

theorem Memory.read_cons (c : Cell) (m : Memory) (a : Nat) :
    Memory.read (c :: m) a = if c.1 = a then c.2 else Memory.read m a := rfl

theorem Memory.read_erase (m : Memory) (a b : Nat) :
    (Memory.erase m a).read b = if a = b then 0#16 else Memory.read m b := by
  induction m with
  | nil => simp [Memory.erase]
  | cons c m ih =>
    by_cases h : c.1 = a
    · have : Memory.erase (c :: m) a = Memory.erase m a := by simp [Memory.erase, h]
      rw [this, ih, Memory.read_cons]
      by_cases hb : a = b <;> simp [hb, h]
    · have : Memory.erase (c :: m) a = c :: Memory.erase m a := by simp [Memory.erase, h]
      rw [this, Memory.read_cons, ih, Memory.read_cons]
      by_cases hb : a = b
      · subst hb; simp [h]
      · simp [hb]

theorem Memory.read_insert (m : Memory) (a b : Nat) (v : Word) (h : ∀ c ∈ m, c.1 ≠ a) :
    (Memory.insert m a v).read b = if a = b then v else Memory.read m b := by
  induction m with
  | nil => simp [Memory.insert, Memory.read_cons]
  | cons c m ih =>
    have hm : ∀ d ∈ m, d.1 ≠ a := fun d hd => h d (List.mem_cons_of_mem _ hd)
    unfold Memory.insert
    split
    · rw [Memory.read_cons]
    · rw [Memory.read_cons, ih hm, Memory.read_cons]
      have hc := h c List.mem_cons_self
      by_cases hb : a = b
      · subst hb; simp [hc]
      · simp [hb]

theorem Memory.mem_erase {m : Memory} {a : Nat} {c : Cell} (h : c ∈ Memory.erase m a) :
    c ∈ m ∧ c.1 ≠ a := by simpa [Memory.erase] using h

/-- A read after a write: the value written at that address, every other address as before. -/
theorem Memory.read_write (m : Memory) (a b : Nat) (v : Word) :
    (Memory.write m a v).read b = if a = b then v else Memory.read m b := by
  unfold Memory.write
  split
  · next h => rw [Memory.read_erase, h]; rfl
  · rw [Memory.read_insert _ _ _ _ fun c hc => (Memory.mem_erase hc).2, Memory.read_erase]
    by_cases hb : a = b <;> simp [hb]

@[simp] theorem Memory.read_write_self (m : Memory) (a : Nat) (v : Word) :
    (Memory.write m a v).read a = v := by simp [Memory.read_write]

theorem Memory.read_write_of_ne (m : Memory) {a b : Nat} (v : Word) (h : a ≠ b) :
    (Memory.write m a v).read b = Memory.read m b := by simp [Memory.read_write, h]

theorem Memory.read_writeWords_below (ws : List Word) (m : Memory) (a b : Nat) (h : b < a) :
    (Memory.writeWords m a ws).read b = Memory.read m b := by
  induction ws generalizing m a with
  | nil => rfl
  | cons w ws ih =>
    rw [Memory.writeWords, ih _ _ (by omega), Memory.read_write_of_ne _ _ (by omega)]

/-- An image word reads as it was written. -/
theorem Memory.read_writeWords_inside (ws : List Word) (m : Memory) (a i : Nat) (h : i < ws.length) :
    (Memory.writeWords m a ws).read (a + i) = ws[i] := by
  induction ws generalizing m a i with
  | nil => simp at h
  | cons w ws ih =>
    cases i with
    | zero => simp [Memory.writeWords, Memory.read_writeWords_below]
    | succ i =>
      have := ih (Memory.write m a w) (a + 1) i (by simpa using h)
      simpa [Memory.writeWords, Nat.add_assoc, Nat.add_comm 1 i] using this

theorem Memory.read_writeWords_above (ws : List Word) (m : Memory) (a b : Nat)
    (h : a + ws.length ≤ b) : (Memory.writeWords m a ws).read b = Memory.read m b := by
  induction ws generalizing m a with
  | nil => rfl
  | cons w ws ih =>
    simp only [List.length_cons] at h
    rw [Memory.writeWords, ih _ _ (by omega), Memory.read_write_of_ne _ _ (by omega)]

/-! ### The canonical form -/

theorem Memory.wfFrom_cons {lo : Nat} {c : Cell} {m : Memory} :
    Memory.wfFrom lo (c :: m) = true ↔
      lo ≤ c.1 ∧ c.1 < 32768 ∧ c.2 ≠ 0#16 ∧ Memory.wfFrom (c.1 + 1) m = true := by
  simp only [Memory.wfFrom, Bool.and_eq_true, decide_eq_true_eq, and_assoc]
  rfl

theorem Memory.wfFrom_mono {lo lo' : Nat} {m : Memory} (h : lo' ≤ lo)
    (hm : Memory.wfFrom lo m = true) : Memory.wfFrom lo' m = true := by
  cases m with
  | nil => rfl
  | cons c m =>
    obtain ⟨h1, h2, h3, h4⟩ := Memory.wfFrom_cons.1 hm
    exact Memory.wfFrom_cons.2 ⟨by omega, h2, h3, h4⟩

theorem Memory.wfFrom_mem {lo : Nat} {m : Memory} (hm : Memory.wfFrom lo m = true) {c : Cell}
    (hc : c ∈ m) : lo ≤ c.1 := by
  induction m generalizing lo with
  | nil => simp at hc
  | cons d m ih =>
    obtain ⟨h1, -, -, h4⟩ := Memory.wfFrom_cons.1 hm
    rcases List.mem_cons.1 hc with rfl | hc
    · exact h1
    · have := ih h4 hc
      omega

theorem Memory.wfFrom_erase {lo : Nat} {m : Memory} (a : Nat) (hm : Memory.wfFrom lo m = true) :
    Memory.wfFrom lo (Memory.erase m a) = true := by
  induction m generalizing lo with
  | nil => rfl
  | cons c m ih =>
    obtain ⟨h1, h2, h3, h4⟩ := Memory.wfFrom_cons.1 hm
    by_cases h : c.1 = a
    · have : Memory.erase (c :: m) a = Memory.erase m a := by simp [Memory.erase, h]
      rw [this]
      exact Memory.wfFrom_mono (by omega) (ih h4)
    · have : Memory.erase (c :: m) a = c :: Memory.erase m a := by simp [Memory.erase, h]
      rw [this]
      exact Memory.wfFrom_cons.2 ⟨h1, h2, h3, ih h4⟩

theorem Memory.wfFrom_insert {lo a : Nat} {m : Memory} {v : Word} (hlo : lo ≤ a) (ha : a < 32768)
    (hv : v ≠ 0#16) (hne : ∀ c ∈ m, c.1 ≠ a) (hm : Memory.wfFrom lo m = true) :
    Memory.wfFrom lo (Memory.insert m a v) = true := by
  induction m generalizing lo with
  | nil => exact Memory.wfFrom_cons.2 ⟨hlo, ha, hv, rfl⟩
  | cons c m ih =>
    obtain ⟨h1, h2, h3, h4⟩ := Memory.wfFrom_cons.1 hm
    unfold Memory.insert
    split
    · next h => exact Memory.wfFrom_cons.2 ⟨hlo, ha, hv, Memory.wfFrom_cons.2 ⟨h, h2, h3, h4⟩⟩
    · next h =>
      have hc := hne c List.mem_cons_self
      exact Memory.wfFrom_cons.2 ⟨h1, h2, h3,
        ih (by omega) (fun d hd => hne d (List.mem_cons_of_mem _ hd)) h4⟩

/-- A write inside memory keeps the canonical form. -/
theorem Memory.wf_write {m : Memory} {a : Nat} (v : Word) (ha : a < 32768) (hm : m.wf = true) :
    (Memory.write m a v).wf = true := by
  unfold Memory.write
  split
  · exact Memory.wfFrom_erase a hm
  · next hv =>
    exact Memory.wfFrom_insert (Nat.zero_le a) ha hv (fun c hc => (Memory.mem_erase hc).2)
      (Memory.wfFrom_erase a hm)

/-- Writing an image that fits keeps the canonical form. -/
theorem Memory.wf_writeWords (ws : List Word) {m : Memory} {a : Nat} (h : a + ws.length ≤ 32768)
    (hm : m.wf = true) : (Memory.writeWords m a ws).wf = true := by
  induction ws generalizing m a with
  | nil => exact hm
  | cons w ws ih =>
    simp only [List.length_cons] at h
    exact ih (by omega) (Memory.wf_write w (by omega) hm)

@[simp] theorem Memory.wf_nil : Memory.wf [] = true := rfl

/-! ### The words a fetch sees -/

@[simp] theorem Memory.wordsFrom_zero (m : Memory) (a : Nat) : Memory.wordsFrom m 0 a = [] := rfl

theorem Memory.wordsFrom_succ (m : Memory) (n a : Nat) :
    Memory.wordsFrom m (n + 1) a =
      if a < 32768 then m.read a :: Memory.wordsFrom m n (a + 1) else [] := rfl

/-- The words seen depend on memory only through its reads. -/
theorem Memory.wordsFrom_congr {m m' : Memory} (h : ∀ a, m.read a = m'.read a) (n a : Nat) :
    Memory.wordsFrom m n a = Memory.wordsFrom m' n a := by
  induction n generalizing a with
  | zero => rfl
  | succ n ih => simp only [Memory.wordsFrom_succ, h, ih]

end Sys2Proof.Machine
end

