-- ==== Sys2Proof/Laws/State.lean ====
section
/-!
SUPPORT. One lemma per field per update of State, all true by rfl, so that no proof unfolds a record
update; and the laws of the register file and of the port registers.
-/

namespace Sys2Proof.Machine

section
variable (s : State) (r : RegIdx) (v : Word)

@[simp] theorem setReg_mem : (s.setReg r v).mem = s.mem := rfl
@[simp] theorem setReg_x : (s.setReg r v).x = s.x.set r v := rfl
@[simp] theorem setReg_acc : (s.setReg r v).acc = s.acc := rfl
@[simp] theorem setReg_pc : (s.setReg r v).pc = s.pc := rfl
@[simp] theorem setReg_sp : (s.setReg r v).sp = s.sp := rfl
@[simp] theorem setReg_flags : (s.setReg r v).flags = s.flags := rfl
@[simp] theorem setReg_port : (s.setReg r v).port = s.port := rfl
@[simp] theorem setReg_video : (s.setReg r v).video = s.video := rfl
@[simp] theorem setReg_time : (s.setReg r v).time = s.time := rfl
@[simp] theorem setReg_es : (s.setReg r v).es = s.es := rfl
@[simp] theorem setReg_fc : (s.setReg r v).fc = s.fc := rfl

theorem getReg_setReg (q : RegIdx) :
    (s.setReg r v).getReg q = if r = q then v else s.getReg q := by
  simp [State.getReg, State.setReg, Vector.getElem_set, Fin.ext_iff]

@[simp] theorem getReg_setReg_self : (s.setReg r v).getReg r = v := by simp [getReg_setReg]

theorem getReg_setReg_of_ne {q : RegIdx} (h : r ≠ q) : (s.setReg r v).getReg q = s.getReg q := by
  simp [getReg_setReg, h]
end

section
variable (f : ExecFault) (s : State)

@[simp] theorem raise_mem : (raise f s).mem = s.mem := rfl
@[simp] theorem raise_x : (raise f s).x = s.x := rfl
@[simp] theorem raise_acc : (raise f s).acc = s.acc := rfl
@[simp] theorem raise_pc : (raise f s).pc = s.pc := rfl
@[simp] theorem raise_sp : (raise f s).sp = s.sp := rfl
@[simp] theorem raise_flags : (raise f s).flags = s.flags := rfl
@[simp] theorem raise_port : (raise f s).port = s.port := rfl
@[simp] theorem raise_video : (raise f s).video = s.video := rfl
@[simp] theorem raise_time : (raise f s).time = s.time := rfl
@[simp] theorem raise_es : (raise f s).es = .faulted := rfl
@[simp] theorem raise_fc : (raise f s).fc = f.cause := rfl
end

section
variable (n : Nat) (s : State)

@[simp] theorem commitNext_mem : (commitNext n s).mem = s.mem := rfl
@[simp] theorem commitNext_x : (commitNext n s).x = s.x := rfl
@[simp] theorem commitNext_acc : (commitNext n s).acc = s.acc := rfl
@[simp] theorem commitNext_pc : (commitNext n s).pc = s.pc + BitVec.ofNat 16 n := rfl
@[simp] theorem commitNext_sp : (commitNext n s).sp = s.sp := rfl
@[simp] theorem commitNext_flags : (commitNext n s).flags = s.flags := rfl
@[simp] theorem commitNext_port : (commitNext n s).port = s.port := rfl
@[simp] theorem commitNext_video : (commitNext n s).video = s.video := rfl
@[simp] theorem commitNext_time : (commitNext n s).time = s.time + 1#16 := rfl
@[simp] theorem commitNext_es : (commitNext n s).es = s.es := rfl
@[simp] theorem commitNext_fc : (commitNext n s).fc = s.fc := rfl
end

section
variable (target : Word) (s : State)

@[simp] theorem commitJump_mem : (commitJump target s).mem = s.mem := rfl
@[simp] theorem commitJump_x : (commitJump target s).x = s.x := rfl
@[simp] theorem commitJump_acc : (commitJump target s).acc = s.acc := rfl
@[simp] theorem commitJump_pc : (commitJump target s).pc = target := rfl
@[simp] theorem commitJump_sp : (commitJump target s).sp = s.sp := rfl
@[simp] theorem commitJump_flags : (commitJump target s).flags = s.flags := rfl
@[simp] theorem commitJump_port : (commitJump target s).port = s.port := rfl
@[simp] theorem commitJump_video : (commitJump target s).video = s.video := rfl
@[simp] theorem commitJump_time : (commitJump target s).time = s.time + 1#16 := rfl
@[simp] theorem commitJump_es : (commitJump target s).es = s.es := rfl
@[simp] theorem commitJump_fc : (commitJump target s).fc = s.fc := rfl
end

section
variable (s : State) (v : Word) (p : BusTarget)

@[simp] theorem busWrite_mem : (busWrite s v p).mem = s.mem := by cases p <;> rfl
@[simp] theorem busWrite_x : (busWrite s v p).x = s.x := by cases p <;> rfl
@[simp] theorem busWrite_acc : (busWrite s v p).acc = s.acc := by cases p <;> rfl
@[simp] theorem busWrite_pc : (busWrite s v p).pc = s.pc := by cases p <;> rfl
@[simp] theorem busWrite_sp : (busWrite s v p).sp = s.sp := by cases p <;> rfl
@[simp] theorem busWrite_flags : (busWrite s v p).flags = s.flags := by cases p <;> rfl
@[simp] theorem busWrite_time : (busWrite s v p).time = s.time := by cases p <;> rfl
@[simp] theorem busWrite_es : (busWrite s v p).es = s.es := by cases p <;> rfl
@[simp] theorem busWrite_fc : (busWrite s v p).fc = s.fc := by cases p <;> rfl
@[simp] theorem busWrite_port_port (k : Fin 4) : (busWrite s v (.port k)).port = s.port.set k v := rfl
@[simp] theorem busWrite_port_video (k : Fin 4) : (busWrite s v (.port k)).video = s.video := rfl
@[simp] theorem busWrite_video_port : (busWrite s v .video).port = s.port := rfl
@[simp] theorem busWrite_video_video : (busWrite s v .video).video = v := rfl
end

section
variable (k : Fin 4) (v : Word) (s : State)

@[simp] theorem deviceWrite_mem : (deviceWrite k v s).mem = s.mem := rfl
@[simp] theorem deviceWrite_x : (deviceWrite k v s).x = s.x := rfl
@[simp] theorem deviceWrite_acc : (deviceWrite k v s).acc = s.acc := rfl
@[simp] theorem deviceWrite_pc : (deviceWrite k v s).pc = s.pc := rfl
@[simp] theorem deviceWrite_sp : (deviceWrite k v s).sp = s.sp := rfl
@[simp] theorem deviceWrite_flags : (deviceWrite k v s).flags = s.flags := rfl
@[simp] theorem deviceWrite_port : (deviceWrite k v s).port = s.port.set k v := rfl
@[simp] theorem deviceWrite_video : (deviceWrite k v s).video = s.video := rfl
@[simp] theorem deviceWrite_time : (deviceWrite k v s).time = s.time := rfl
@[simp] theorem deviceWrite_es : (deviceWrite k v s).es = s.es := rfl
@[simp] theorem deviceWrite_fc : (deviceWrite k v s).fc = s.fc := rfl
end

end Sys2Proof.Machine
end

