-- ==== Sys2Proof/Laws/Ops.lean ====
section
/-!
SUPPORT. One lemma per shared operation that says everything it can do; provers cite these and do not
unfold the operations.
-/

namespace Sys2Proof.Machine

@[simp] theorem outcome_ok (s t : State) : outcome s (.ok t) = .next t := rfl
@[simp] theorem outcome_error (s : State) (f : ExecFault) : outcome s (.error f) = .next (raise f s) := rfl

/-- An instruction's outcome is a next state: the handler's, or the fault taken. -/
theorem outcome_cases (s : State) (e : Except ExecFault State) :
    (∃ t, e = .ok t ∧ outcome s e = .next t) ∨ (∃ f, e = .error f ∧ outcome s e = .next (raise f s)) := by
  cases e with
  | ok t => exact .inl ⟨t, rfl, rfl⟩
  | error f => exact .inr ⟨f, rfl, rfl⟩

@[simp] theorem ok_bind {α β : Type} (a : α) (k : α → Except ExecFault β) :
    ((Except.ok a : Except ExecFault α) >>= k) = k a := rfl
@[simp] theorem error_bind {α β : Type} (f : ExecFault) (k : α → Except ExecFault β) :
    ((Except.error f : Except ExecFault α) >>= k) = .error f := rfl
@[simp] theorem pure_eq_ok {α : Type} (a : α) : (pure a : Except ExecFault α) = .ok a := rfl

theorem cause_ne_noFault (f : ExecFault) : f.cause ≠ .noFault := by cases f <;> decide
theorem cause_ne_programTooLarge (f : ExecFault) : f.cause ≠ .programTooLarge := by cases f <;> decide

/-- A register-index word in 1..15 gives the register of that number. -/
theorem regOperand_ok_iff (w : Word) (r : RegIdx) : regOperand w = .ok r ↔ w.toNat = r.val + 1 := by
  unfold regOperand
  split
  · next h =>
    simp only [Except.ok.injEq, Fin.ext_iff]
    omega
  · next h =>
    simp only [reduceCtorEq, false_iff]
    omega

/-- Any other word is InvalidRegister. -/
theorem regOperand_error {w : Word} (h : ¬ (1 ≤ w.toNat ∧ w.toNat ≤ 15)) :
    regOperand w = .error .invalidRegister := by simp [regOperand, h]

theorem regOperand_cases (w : Word) :
    (∃ r : RegIdx, w.toNat = r.val + 1 ∧ regOperand w = .ok r) ∨
      (¬ (1 ≤ w.toNat ∧ w.toNat ≤ 15) ∧ regOperand w = .error .invalidRegister) := by
  by_cases h : 1 ≤ w.toNat ∧ w.toNat ≤ 15
  · refine .inl ⟨⟨w.toNat - 1, by omega⟩, ?_, ?_⟩
    · simp only
      omega
    · simp [regOperand, h]
  · exact .inr ⟨h, regOperand_error h⟩

/-- A pair of register words: both registers, or InvalidRegister. -/
theorem regPair_cases (w1 w2 : Word) :
    (∃ r1 r2 : RegIdx, w1.toNat = r1.val + 1 ∧ w2.toNat = r2.val + 1 ∧ regPair w1 w2 = .ok (r1, r2)) ∨
      (¬ ((1 ≤ w1.toNat ∧ w1.toNat ≤ 15) ∧ 1 ≤ w2.toNat ∧ w2.toNat ≤ 15) ∧
        regPair w1 w2 = .error .invalidRegister) := by
  rcases regOperand_cases w1 with ⟨r1, h1, e1⟩ | ⟨h1, e1⟩
  · rcases regOperand_cases w2 with ⟨r2, h2, e2⟩ | ⟨h2, e2⟩
    · exact .inl ⟨r1, r2, h1, h2, by simp [regPair, e1, e2]⟩
    · exact .inr ⟨fun h => h2 h.2, by simp [regPair, e1, e2]⟩
  · exact .inr ⟨fun h => h1 h.1, by simp [regPair, e1]⟩

theorem memRead_cases (addr : Word) (s : State) :
    (addr.toNat < 32768 ∧ memRead addr s = .ok (s.mem.read addr.toNat)) ∨
      (32768 ≤ addr.toNat ∧ memRead addr s = .error .outOfBounds) := by
  by_cases h : 32768 ≤ addr.toNat
  · exact .inr ⟨h, by simp [memRead, Config.memWords, h]⟩
  · exact .inl ⟨by omega, by simp [memRead, Config.memWords, h]⟩

theorem memWrite_cases (addr v : Word) (s : State) :
    (addr.toNat < 32768 ∧ memWrite addr v s = .ok { s with mem := s.mem.write addr.toNat v }) ∨
      (32768 ≤ addr.toNat ∧ memWrite addr v s = .error .outOfBounds) := by
  by_cases h : 32768 ≤ addr.toNat
  · exact .inr ⟨h, by simp [memWrite, Config.memWords, h]⟩
  · exact .inl ⟨by omega, by simp [memWrite, Config.memWords, h]⟩

/-- A push inside the region; a StackFault below it; and, with an `sp` no run reaches, OutOfBounds. -/
theorem push_cases (v : Word) (s : State) :
    (32513 ≤ s.sp.toNat ∧ s.sp.toNat < 32768 ∧
        push v s = .ok { s with mem := s.mem.write s.sp.toNat v, sp := s.sp - 1#16 }) ∨
      (s.sp.toNat < 32513 ∧ push v s = .error .stackFault) ∨
      (32768 ≤ s.sp.toNat ∧ push v s = .error .outOfBounds) := by
  by_cases h : s.sp.toNat < 32513
  · have h' : (s.sp.toNat : Int) - 1 < 32512 := by omega
    exact .inr (.inl ⟨h, by simp [push, Config.stackBottom, h']⟩)
  · have h' : ¬ (s.sp.toNat : Int) - 1 < 32512 := by omega
    rcases memWrite_cases s.sp v s with ⟨hs, e⟩ | ⟨hs, e⟩
    · exact .inl ⟨by omega, hs, by simp [push, Config.stackBottom, h', e]⟩
    · exact .inr (.inr ⟨hs, by simp [push, Config.stackBottom, h', e]⟩)

/-- A pop below the top of the region, or a StackFault. -/
theorem pop_cases (s : State) :
    (s.sp.toNat < 32767 ∧ pop s = .ok (s.mem.read (s.sp.toNat + 1), { s with sp := s.sp + 1#16 })) ∨
      (32767 ≤ s.sp.toNat ∧ pop s = .error .stackFault) := by
  by_cases h : 32767 ≤ s.sp.toNat
  · have h' : 32767 < s.sp.toNat + 1 := by omega
    exact .inr ⟨h, by simp [pop, Config.stackTop, h']⟩
  · have h' : ¬ 32767 < s.sp.toNat + 1 := by omega
    have hn : (s.sp + 1#16).toNat = s.sp.toNat + 1 := by
      simp only [BitVec.toNat_add]
      have : (1#16).toNat = 1 := rfl
      omega
    rcases memRead_cases (s.sp + 1#16) s with ⟨-, e⟩ | ⟨hs, -⟩
    · rw [hn] at e
      exact .inl ⟨by omega, by simp only [pop, Config.stackTop, h', if_false, e]⟩
    · omega

theorem inPortOperand_cases (w : Word) :
    (∃ k : Fin 4, w.toNat = k.val ∧ inPortOperand w = .ok (.port k)) ∨
      (w.toNat = 4 ∧ inPortOperand w = .ok .video) ∨ (w.toNat = 5 ∧ inPortOperand w = .ok .time) ∨
      (5 < w.toNat ∧ inPortOperand w = .error .invalidPort) := by
  unfold inPortOperand Config.videoPort Config.timePort
  by_cases h : w.toNat < 4
  · exact .inl ⟨⟨w.toNat, h⟩, rfl, by simp [h]⟩
  · by_cases h4 : w.toNat = 4
    · exact .inr (.inl ⟨h4, by simp [h4]⟩)
    · by_cases h5 : w.toNat = 5
      · exact .inr (.inr (.inl ⟨h5, by simp [h5]⟩))
      · exact .inr (.inr (.inr ⟨by omega, by simp [h, h4, h5]⟩))

theorem outPortOperand_cases (w : Word) :
    (∃ k : Fin 4, w.toNat = k.val ∧ outPortOperand w = .ok (.port k)) ∨
      (w.toNat = 4 ∧ outPortOperand w = .ok .video) ∨
      (4 < w.toNat ∧ outPortOperand w = .error .invalidPort) := by
  unfold outPortOperand Config.videoPort
  by_cases h : w.toNat < 4
  · exact .inl ⟨⟨w.toNat, h⟩, rfl, by simp [h]⟩
  · by_cases h4 : w.toNat = 4
    · exact .inr (.inl ⟨h4, by simp [h4]⟩)
    · exact .inr (.inr ⟨by omega, by simp [h, h4]⟩)

theorem sub_eq_zero_iff (a b : Word) : a - b = 0#16 ↔ a = b := by
  constructor
  · intro h
    have := congrArg (· + b) h
    simpa using this
  · rintro rfl
    simp

/-- Whatever is compared, the flags are one of the three rows of rule R132. -/
theorem setFlagsCompare_legal (a b : Word) : (setFlagsCompare a b).legal = true := by
  have hz : decide (a - b = 0#16) = decide (a = b) := by simp only [sub_eq_zero_iff]
  simp only [setFlagsCompare, Flags.legal, hz]
  simp only [BitVec.lt_def, BitVec.toNat_eq]
  rcases Nat.lt_trichotomy a.toNat b.toNat with h | h | h
  · simp [h, Nat.ne_of_lt h, Nat.lt_asymm h]
  · simp [h]
  · simp [h, Nat.ne_of_gt h, Nat.lt_asymm h]

theorem resultFlags_eq (r : Word) :
    resultFlags r = { z := decide (r = 0#16), g := decide (r ≠ 0#16), l := false, e := decide (r = 0#16) } := by
  have h0 : ¬ r < 0#16 := by simp
  have hpos : (0#16 < r) ↔ r ≠ 0#16 := by simp [BitVec.lt_def, BitVec.toNat_eq, Nat.pos_iff_ne_zero]
  simp only [resultFlags, setFlagsCompare, sub_eq_zero_iff, h0, hpos, decide_false]

/-- The arithmetic results: a word, or (DIV and MOD by zero) ArithmeticFault. -/
theorem aluDiv_cases (a b : Word) :
    (b = 0#16 ∧ aluDiv a b = .error .arithmeticFault) ∨ (b ≠ 0#16 ∧ aluDiv a b = .ok (a / b)) := by
  by_cases h : b = 0#16
  · exact .inl ⟨h, by simp [aluDiv, h]⟩
  · exact .inr ⟨h, by simp [aluDiv, h]⟩

theorem aluMod_cases (a b : Word) :
    (b = 0#16 ∧ aluMod a b = .error .arithmeticFault) ∨ (b ≠ 0#16 ∧ aluMod a b = .ok (a % b)) := by
  by_cases h : b = 0#16
  · exact .inl ⟨h, by simp [aluMod, h]⟩
  · exact .inr ⟨h, by simp [aluMod, h]⟩

/-! ### The operand checks of WellFormed in plain numbers -/

theorem legalReg_iff (w : Word) : legalReg w = true ↔ 1 ≤ w.toNat ∧ w.toNat ≤ 15 := by
  unfold legalReg
  rw [Bool.and_eq_true, decide_eq_true_eq, decide_eq_true_eq]
  rfl

theorem legalAddr_iff (w : Word) : legalAddr w = true ↔ w.toNat < 32768 := by
  unfold legalAddr
  rw [decide_eq_true_eq]
  rfl

theorem legalInPort_iff (w : Word) : legalInPort w = true ↔ w.toNat ≤ 5 := by
  unfold legalInPort
  rw [decide_eq_true_eq]
  rfl

theorem legalOutPort_iff (w : Word) : legalOutPort w = true ↔ w.toNat ≤ 4 := by
  unfold legalOutPort
  rw [decide_eq_true_eq]
  rfl

end Sys2Proof.Machine
end

