-- ==== Sys2Proof/Laws/PerInstr.lean ====
section
/-!
SUPPORT. Statements made per instruction, about the instruction as syntax.
-/

namespace Sys2Proof.Laws.EncodeLength

/-- An instruction's encoding has as many words as its length says. -/
def Statement (i : Instr) : Prop := (encode i).length = i.len

theorem halt : Statement .halt := rfl
theorem loadRI (d imm : Word) : Statement (.loadRI d imm) := rfl
theorem loadRM (d addr : Word) : Statement (.loadRM d addr) := rfl
theorem loadAI (imm : Word) : Statement (.loadAI imm) := rfl
theorem loadAM (addr : Word) : Statement (.loadAM addr) := rfl
theorem storeR (s addr : Word) : Statement (.storeR s addr) := rfl
theorem storeA (addr : Word) : Statement (.storeA addr) := rfl
theorem movRR (d s : Word) : Statement (.movRR d s) := rfl
theorem movRA (d : Word) : Statement (.movRA d) := rfl
theorem movAR (s : Word) : Statement (.movAR s) := rfl
theorem add (a b : Word) : Statement (.add a b) := rfl
theorem sub (a b : Word) : Statement (.sub a b) := rfl
theorem mul (a b : Word) : Statement (.mul a b) := rfl
theorem div (a b : Word) : Statement (.div a b) := rfl
theorem mod (a b : Word) : Statement (.mod a b) := rfl
theorem cmp (a b : Word) : Statement (.cmp a b) := rfl
theorem jmp (target : Word) : Statement (.jmp target) := rfl
theorem jz (target : Word) : Statement (.jz target) := rfl
theorem jg (target : Word) : Statement (.jg target) := rfl
theorem jl (target : Word) : Statement (.jl target) := rfl
theorem je (target : Word) : Statement (.je target) := rfl
theorem call (target : Word) : Statement (.call target) := rfl
theorem ret : Statement .ret := rfl
theorem push (s : Word) : Statement (.push s) := rfl
theorem pop (d : Word) : Statement (.pop d) := rfl
theorem inp (d port : Word) : Statement (.inp d port) := rfl
theorem out (s port : Word) : Statement (.out s port) := rfl

end Sys2Proof.Laws.EncodeLength
end

