-- ==== Sys2Proof/Laws/Step.lean ====
section
/-!
SUPPORT. What a step can do, said once, and that every meaning is the outcome of a handler.
-/

namespace Sys2Proof.Machine

/-- Every meaning ends in the outcome of its handler: a committed state or a fault taken. -/
theorem exec_is_outcome (i : Instr) (s : State) : ∃ e, exec i s = outcome s e := by
  cases i <;> first | exact ⟨.ok _, rfl⟩ | exact ⟨_, rfl⟩

/-- A step does nothing, takes a fetch or decode fault, or is the decoded instruction. -/
theorem step_cases (s : State) :
    (s.es ≠ .running ∧ step s = .next s) ∨
      (s.es = .running ∧ ∃ f, fetchDecode s = .error f ∧ step s = .next (raise f s)) ∨
      (s.es = .running ∧ ∃ i, fetchDecode s = .ok i ∧ step s = exec i s) := by
  cases h : s.es with
  | halted => exact .inl ⟨by simp, by simp [step, h]⟩
  | faulted => exact .inl ⟨by simp, by simp [step, h]⟩
  | running =>
    cases hd : fetchDecode s with
    | error f => exact .inr (.inl ⟨rfl, f, rfl, by simp [step, h, hd]⟩)
    | ok i => exact .inr (.inr ⟨rfl, i, rfl, by simp [step, h, hd]⟩)

/-- Fetch and decode give the instruction that the decoder reads from the words at `pc`. -/
theorem fetchDecode_ok_iff (s : State) (i : Instr) :
    fetchDecode s = .ok i ↔ ∃ rest, decode (fetchWords s) = .ok (i, rest) := by
  unfold fetchDecode
  split
  · next j rest h => simp [h]
  · next e h => simp [h]

end Sys2Proof.Machine
end

