-- ==== Sys2Proof/Tests/Slice0.lean ====
section
/-!
SUPPORT. The model's own tests. Expected results come from the spec: the opcode map of 30_encoding.md rule
R76 for the words, the vectors TV<n> of 95_test_vectors.md and the examples of the instruction rules for
the effects. The witness theorems show states and operands that meet the hypotheses of the statements of
Certificates/Slice0/Obligations.lean, at the ends of their ranges.
-/

namespace Sys2Proof.Tests

open Sys2Proof Sys2Proof.Machine

/-- The machine right after a load of those words at 0 into a reset machine ("Start: loaded"). -/
def start (ws : List Word) : State := loaded ws 0 State.reset

/-- That machine with `x[1] = a` and `x[2] = b`. -/
def startAB (ws : List Word) (a b : Word) : State :=
  { start ws with x := ((start ws).x.set 0 a).set 1 b }

/-- The state of an outcome. -/
def after (o : Host.Outcome State Fault Refusal) : State :=
  match o with
  | .next t => t
  | .fault _ => State.reset
  | .refused _ => State.reset

/-! ### Ill-formed operands are refused by WellFormed -/

theorem test_illformed_reg_zero : Instr.wellFormed (.loadRI 0#16 5#16) = false := by decide

theorem test_illformed_reg_sixteen : Instr.wellFormed (.push 16#16) = false := by decide

theorem test_illformed_reg_high_bits : Instr.wellFormed (.movRA 0x0101#16) = false := by decide

theorem test_illformed_second_reg : Instr.wellFormed (.add 1#16 16#16) = false := by decide

theorem test_illformed_load_addr : Instr.wellFormed (.loadRM 1#16 0x8000#16) = false := by decide

theorem test_illformed_load_acc_addr : Instr.wellFormed (.loadAM 0xFFFF#16) = false := by decide

theorem test_illformed_store_addr : Instr.wellFormed (.storeR 1#16 0x8000#16) = false := by decide

theorem test_illformed_store_acc_addr : Instr.wellFormed (.storeA 0x8000#16) = false := by decide

theorem test_illformed_in_port : Instr.wellFormed (.inp 1#16 6#16) = false := by decide

theorem test_illformed_out_port : Instr.wellFormed (.out 1#16 5#16) = false := by decide

theorem test_wellformed_limits : Instr.wellFormed (.loadRM 15#16 0x7FFF#16) = true ∧
    Instr.wellFormed (.inp 1#16 5#16) = true ∧ Instr.wellFormed (.out 15#16 4#16) = true := by decide

/-! ### Decoding: each instruction's words, written out from the opcode map -/

theorem test_decode_HALT : decode [0x0000#16, 0xBEEF#16] = .ok (.halt, [0xBEEF#16]) := by decide

theorem test_decode_LOAD_RI : decode [0x0001#16, 0x0001#16, 0x0005#16, 0xBEEF#16] = .ok (.loadRI 1#16 5#16, [0xBEEF#16]) := by decide

theorem test_decode_LOAD_RM : decode [0x0002#16, 0x0003#16, 0x0064#16, 0xBEEF#16] = .ok (.loadRM 3#16 0x64#16, [0xBEEF#16]) := by decide

theorem test_decode_LOAD_AI : decode [0x0003#16, 0xDEAD#16, 0xBEEF#16] = .ok (.loadAI 0xDEAD#16, [0xBEEF#16]) := by decide

theorem test_decode_LOAD_AM : decode [0x0004#16, 0x00C8#16, 0xBEEF#16] = .ok (.loadAM 0xC8#16, [0xBEEF#16]) := by decide

theorem test_decode_STORE_R : decode [0x0005#16, 0x0003#16, 0x0064#16, 0xBEEF#16] = .ok (.storeR 3#16 0x64#16, [0xBEEF#16]) := by decide

theorem test_decode_STORE_A : decode [0x0006#16, 0x00C8#16, 0xBEEF#16] = .ok (.storeA 0xC8#16, [0xBEEF#16]) := by decide

theorem test_decode_MOV_RR : decode [0x0007#16, 0x0005#16, 0x0002#16, 0xBEEF#16] = .ok (.movRR 5#16 2#16, [0xBEEF#16]) := by decide

theorem test_decode_MOV_RA : decode [0x0008#16, 0x0003#16, 0xBEEF#16] = .ok (.movRA 3#16, [0xBEEF#16]) := by decide

theorem test_decode_MOV_AR : decode [0x0009#16, 0x0004#16, 0xBEEF#16] = .ok (.movAR 4#16, [0xBEEF#16]) := by decide

theorem test_decode_ADD : decode [0x000A#16, 0x0001#16, 0x0002#16, 0xBEEF#16] = .ok (.add 1#16 2#16, [0xBEEF#16]) := by decide

theorem test_decode_SUB : decode [0x000B#16, 0x0001#16, 0x0002#16, 0xBEEF#16] = .ok (.sub 1#16 2#16, [0xBEEF#16]) := by decide

theorem test_decode_MUL : decode [0x000C#16, 0x0001#16, 0x0003#16, 0xBEEF#16] = .ok (.mul 1#16 3#16, [0xBEEF#16]) := by decide

theorem test_decode_DIV : decode [0x000D#16, 0x0001#16, 0x0002#16, 0xBEEF#16] = .ok (.div 1#16 2#16, [0xBEEF#16]) := by decide

theorem test_decode_MOD : decode [0x000E#16, 0x0001#16, 0x0002#16, 0xBEEF#16] = .ok (.mod 1#16 2#16, [0xBEEF#16]) := by decide

theorem test_decode_CMP : decode [0x000F#16, 0x0003#16, 0x0004#16, 0xBEEF#16] = .ok (.cmp 3#16 4#16, [0xBEEF#16]) := by decide

theorem test_decode_JMP : decode [0x0010#16, 0x8000#16, 0xBEEF#16] = .ok (.jmp 0x8000#16, [0xBEEF#16]) := by decide

theorem test_decode_JZ : decode [0x0011#16, 0x0017#16, 0xBEEF#16] = .ok (.jz 0x17#16, [0xBEEF#16]) := by decide

theorem test_decode_JG : decode [0x0012#16, 0x0040#16, 0xBEEF#16] = .ok (.jg 0x40#16, [0xBEEF#16]) := by decide

theorem test_decode_JL : decode [0x0013#16, 0x0040#16, 0xBEEF#16] = .ok (.jl 0x40#16, [0xBEEF#16]) := by decide

theorem test_decode_JE : decode [0x0014#16, 0x001C#16, 0xBEEF#16] = .ok (.je 0x1C#16, [0xBEEF#16]) := by decide

theorem test_decode_CALL : decode [0x0015#16, 0x000C#16, 0xBEEF#16] = .ok (.call 0xC#16, [0xBEEF#16]) := by decide

theorem test_decode_RET : decode [0x0016#16, 0xBEEF#16] = .ok (.ret, [0xBEEF#16]) := by decide

theorem test_decode_PUSH : decode [0x0017#16, 0x0001#16, 0xBEEF#16] = .ok (.push 1#16, [0xBEEF#16]) := by decide

theorem test_decode_POP : decode [0x0018#16, 0x0002#16, 0xBEEF#16] = .ok (.pop 2#16, [0xBEEF#16]) := by decide

theorem test_decode_IN : decode [0x0019#16, 0x0003#16, 0x0005#16, 0xBEEF#16] = .ok (.inp 3#16 5#16, [0xBEEF#16]) := by decide

theorem test_decode_OUT : decode [0x001A#16, 0x0001#16, 0x0004#16, 0xBEEF#16] = .ok (.out 1#16 4#16, [0xBEEF#16]) := by decide

theorem test_decode_illegal : decode [0x001B#16, 1#16, 1#16] = .error .invalidOpcode ∧
    decode [0xFFFF#16, 1#16, 1#16] = .error .invalidOpcode ∧
    decode [0x0100#16, 1#16, 1#16] = .error .invalidOpcode := by decide

theorem test_decode_short : decode [] = .error .noOpcodeWord ∧
    decode [0x0001#16, 0x0001#16] = .error .operandsPastEnd ∧
    decode [0x0010#16] = .error .operandsPastEnd := by decide

theorem test_tableWord : decodeTableWord 16 0x0019 = some (.inp 0#16 0#16) ∧
    decodeTableWord 48 0x000500030001 = some (.loadRI 3#16 5#16) ∧
    decodeTableWord 16 0x001B = none := by decide

theorem test_fetchWord_first_after_reset :
    (after (step (State.reset.withFetchWord 32 0x12340003))).acc = 0x1234#16 := by decide

/-! ### One step of each instruction -/

/-- TV130. -/
theorem test_HALT : let t := after (step (start [0x0000#16]))
    t.es = .halted ∧ t.fc = .noFault ∧ t.pc = 1#16 ∧ t.time = 1#16 := by decide

/-- TV17. -/
theorem test_HALT_reset : let t := after (step (State.reset))
    t.es = .halted ∧ t.pc = 1#16 ∧ t.time = 1#16 := by decide

/-- TV21. -/
theorem test_LOAD_RI : let t := after (step (start [0x0001#16, 0x000F#16, 0xFFFF#16]))
    t.x[14] = 0xFFFF#16 ∧ t.pc = 3#16 ∧ t.time = 1#16 := by decide

/-- TV22. -/
theorem test_LOAD_RI_r0 : let t := after (step (start [0x0001#16, 0x0000#16, 0x0005#16]))
    t = faultedWith (start [0x0001#16, 0x0000#16, 0x0005#16]) .invalidRegister := by decide

/-- TV24. -/
theorem test_LOAD_RM : let t := after (step ({ start [0x0002#16, 3#16, 0x64#16] with mem := Memory.write (start [0x0002#16, 3#16, 0x64#16]).mem 100 0x1234#16 }))
    t.x[2] = 0x1234#16 ∧ t.pc = 3#16 := by decide

/-- TV11: InvalidRegister outranks OutOfBounds. -/
theorem test_LOAD_RM_order : let t := after (step (start [0x0002#16, 0x0000#16, 0x8000#16]))
    t.es = .faulted ∧ t.fc = .invalidRegister := by decide

/-- TV27. -/
theorem test_LOAD_AI : let t := after (step (start [0x0003#16, 0xDEAD#16]))
    t.acc = 0xDEAD#16 ∧ t.pc = 2#16 ∧ t.flags = ⟨false, false, false, false⟩ := by decide

/-- Rule R113: any word may be read, the instruction's own too. -/
theorem test_LOAD_AM : let t := after (step (start [0x0004#16, 0x0001#16]))
    t.acc = 1#16 ∧ t.pc = 2#16 := by decide

/-- TV29. -/
theorem test_LOAD_AM_high : let t := after (step (start [0x0004#16, 0xFFFF#16]))
    t.es = .faulted ∧ t.fc = .outOfBounds ∧ t.acc = 0#16 ∧ t.pc = 0#16 := by decide

/-- TV41's store: an instruction that overwrites its own opcode word completes. -/
theorem test_STORE_R : let t := after (step (startAB [0x0005#16, 0x0001#16, 0x0000#16] 0x0010#16 0x0000#16))
    t.mem.read 0 = 0x10#16 ∧ t.mem.read 1 = 1#16 ∧ t.pc = 3#16 ∧ t.es = .running := by decide

/-- TV10. -/
theorem test_STORE_R_order : let t := after (step (start [0x0005#16, 0x0000#16, 0x8000#16]))
    t.es = .faulted ∧ t.fc = .invalidRegister := by decide

/-- Rule R115 at the last address. -/
theorem test_STORE_A : let t := after (step ({ start [0x0006#16, 0x7FFF#16] with acc := 18#16 }))
    t.mem.read 32767 = 18#16 ∧ t.acc = 18#16 ∧ t.pc = 2#16 := by decide

/-- TV32. -/
theorem test_STORE_A_high : let t := after (step (start [0x0006#16, 0x8000#16]))
    t.es = .faulted ∧ t.fc = .outOfBounds := by decide

/-- Rule R116's example. -/
theorem test_MOV_RR : let t := after (step (startAB [0x0007#16, 0x0005#16, 0x0002#16] 0x0009#16 0x0003#16))
    t.x[4] = 3#16 ∧ t.x[1] = 3#16 ∧ t.x[0] = 9#16 ∧ t.pc = 3#16 := by decide

/-- TV35. -/
theorem test_MOV_RR_bad : let t := after (step (start [0x0007#16, 0x0001#16, 0x0010#16]))
    t.es = .faulted ∧ t.fc = .invalidRegister := by decide

/-- TV36. -/
theorem test_MOV_RA : let t := after (step ({ start [0x0008#16, 3#16] with acc := 8#16 }))
    t.x[2] = 8#16 ∧ t.acc = 8#16 ∧ t.pc = 2#16 := by decide

/-- Rule R118's example, with R2. -/
theorem test_MOV_AR : let t := after (step (startAB [0x0009#16, 0x0002#16] 0x0001#16 0x00FF#16))
    t.acc = 0xFF#16 ∧ t.x[1] = 0xFF#16 ∧ t.pc = 2#16 := by decide

/-- TV50. -/
theorem test_ADD : let t := after (step (startAB [0x000A#16, 0x0001#16, 0x0002#16] 0x0005#16 0x0003#16))
    t.acc = 0x0008#16 ∧ t.flags = ⟨false, true, false, false⟩ ∧ t.pc = 3#16 := by decide

/-- TV51. -/
theorem test_ADD_wrap : let t := after (step (startAB [0x000A#16, 0x0001#16, 0x0002#16] 0xFFFF#16 0x0001#16))
    t.acc = 0x0000#16 ∧ t.flags = ⟨true, false, false, true⟩ ∧ t.pc = 3#16 := by decide

/-- TV55: L is not set. -/
theorem test_SUB_borrow : let t := after (step (startAB [0x000B#16, 0x0001#16, 0x0002#16] 0x0003#16 0x0005#16))
    t.acc = 0xFFFE#16 ∧ t.flags = ⟨false, true, false, false⟩ ∧ t.pc = 3#16 := by decide

/-- TV56. -/
theorem test_SUB_equal : let t := after (step (startAB [0x000B#16, 0x0001#16, 0x0002#16] 0x0007#16 0x0007#16))
    t.acc = 0x0000#16 ∧ t.flags = ⟨true, false, false, true⟩ ∧ t.pc = 3#16 := by decide

/-- TV58. -/
theorem test_MUL_low : let t := after (step (startAB [0x000C#16, 0x0001#16, 0x0002#16] 0x012C#16 0x012C#16))
    t.acc = 0x5F90#16 ∧ t.flags = ⟨false, true, false, false⟩ ∧ t.pc = 3#16 := by decide

/-- TV60. -/
theorem test_MUL_zero_low : let t := after (step (startAB [0x000C#16, 0x0001#16, 0x0002#16] 0x0100#16 0x0100#16))
    t.acc = 0x0000#16 ∧ t.flags = ⟨true, false, false, true⟩ ∧ t.pc = 3#16 := by decide

/-- TV62. -/
theorem test_DIV : let t := after (step (startAB [0x000D#16, 0x0001#16, 0x0002#16] 0x0007#16 0x0002#16))
    t.acc = 0x0003#16 ∧ t.flags = ⟨false, true, false, false⟩ ∧ t.pc = 3#16 := by decide

/-- TV67. -/
theorem test_DIV_zero : let t := after (step (startAB [0x000D#16, 0x0001#16, 0x0002#16] 0x0000#16 0x0000#16))
    t = faultedWith (startAB [0x000D#16, 1#16, 2#16] 0#16 0#16) .arithmeticFault := by decide

/-- TV71. -/
theorem test_MOD : let t := after (step (startAB [0x000E#16, 0x0001#16, 0x0002#16] 0xFFFF#16 0x0100#16))
    t.acc = 0x00FF#16 ∧ t.flags = ⟨false, true, false, false⟩ ∧ t.pc = 3#16 := by decide

/-- TV72. -/
theorem test_MOD_zero : let t := after (step (startAB [0x000E#16, 0x0001#16, 0x0002#16] 0x0005#16 0x0000#16))
    t.es = .faulted ∧ t.fc = .arithmeticFault ∧ t.acc = 0#16 ∧ t.flags = ⟨false, false, false, false⟩ := by decide

/-- TV85. -/
theorem test_CMP_unsigned : let t := after (step (startAB [0x000F#16, 0x0001#16, 0x0002#16] 0x8000#16 0x7FFF#16))
    t.flags = ⟨false, true, false, false⟩ ∧ t.acc = 0#16 ∧ t.pc = 3#16 := by decide

/-- TV84. -/
theorem test_CMP_less : let t := after (step (startAB [0x000F#16, 0x0001#16, 0x0002#16] 0x0000#16 0xFFFF#16))
    t.flags = ⟨false, false, true, false⟩ := by decide

/-- TV8, step 1. -/
theorem test_JMP_high : let t := after (step (start [0x0010#16, 0x8000#16]))
    t.es = .running ∧ t.pc = 0x8000#16 ∧ t.time = 1#16 := by decide

/-- TV92. -/
theorem test_JZ_not_taken : let t := after (step (start [0x0011#16, 0x0005#16]))
    t.pc = 2#16 ∧ t.time = 1#16 := by decide

/-- Rule R141's example. -/
theorem test_JZ_taken : let t := after (step ({ start [0x0011#16, 0x0017#16] with flags := ⟨true, false, false, true⟩ }))
    t.pc = 23#16 := by decide

/-- Rule R142's example. -/
theorem test_JG_taken : let t := after (step ({ start [0x0012#16, 0x0040#16] with flags := ⟨false, true, false, false⟩ }))
    t.pc = 64#16 := by decide

/-- TV95's JG. -/
theorem test_JG_not_taken : let t := after (step ({ start [0x0012#16, 0x0010#16] with flags := ⟨false, false, true, false⟩ }))
    t.pc = 2#16 := by decide

/-- TV93's JL. -/
theorem test_JL_taken : let t := after (step ({ start [0x0013#16, 0x0010#16] with flags := ⟨false, false, true, false⟩ }))
    t.pc = 16#16 := by decide

/-- TV94's JL. -/
theorem test_JL_not_taken : let t := after (step ({ start [0x0013#16, 0x000D#16] with flags := ⟨false, true, false, false⟩ }))
    t.pc = 2#16 := by decide

/-- Rule R144's example. -/
theorem test_JE_taken : let t := after (step ({ start [0x0014#16, 0x001C#16] with flags := ⟨true, false, false, true⟩ }))
    t.pc = 28#16 := by decide

/-- TV96's JE. -/
theorem test_JE_not_taken : let t := after (step ({ start [0x0014#16, 0x0010#16] with flags := ⟨false, false, true, false⟩ }))
    t.pc = 2#16 := by decide

/-- TV98, step 1. -/
theorem test_CALL : let t := after (step (start [0x0015#16, 0xFFFF#16]))
    t.pc = 65535#16 ∧ t.sp = 32766#16 ∧ t.mem.read 32767 = 2#16 ∧ t.time = 1#16 := by decide

/-- TV99: the return address 32768 overwrites the CALL's own operand word. -/
theorem test_CALL_top : let t := after (step (loaded [0x0015#16, 0#16] 32766 State.reset))
    t.pc = 0#16 ∧ t.sp = 32766#16 ∧ t.mem.read 32767 = 0x8000#16 := by decide

/-- TV100. -/
theorem test_RET_empty : let t := after (step (start [0x0016#16]))
    t.es = .faulted ∧ t.fc = .stackFault ∧ t.pc = 0#16 ∧ t.sp = 32767#16 := by decide

/-- Rule R146's example. -/
theorem test_RET : let t := after (step ({ start [0x0016#16] with sp := 32765#16, mem := Memory.write (start [0x0016#16]).mem 32766 7#16 }))
    t.pc = 7#16 ∧ t.sp = 32766#16 ∧ t.mem.read 32766 = 7#16 := by decide

/-- Rule R152's example. -/
theorem test_PUSH : let t := after (step (startAB [0x0017#16, 0x0001#16] 0x0009#16 0x0000#16))
    t.mem.read 32767 = 9#16 ∧ t.sp = 32766#16 ∧ t.pc = 2#16 := by decide

/-- TV113's last step. -/
theorem test_PUSH_full : let t := after (step ({ startAB [0x0017#16, 0x0001#16] 0x0009#16 0x0000#16 with sp := 32512#16 }))
    t.es = .faulted ∧ t.fc = .stackFault ∧ t.mem.read 32512 = 0#16 ∧ t.sp = 32512#16 := by decide

/-- Rule R153's example. -/
theorem test_POP : let t := after (step ({ start [0x0018#16, 2#16] with sp := 32766#16, mem := Memory.write (start [0x0018#16, 2#16]).mem 32767 9#16 }))
    t.x[1] = 9#16 ∧ t.sp = 32767#16 ∧ t.mem.read 32767 = 9#16 := by decide

/-- TV16: InvalidRegister outranks StackFault. -/
theorem test_POP_order : let t := after (step (start [0x0018#16, 0x0000#16]))
    t.es = .faulted ∧ t.fc = .invalidRegister := by decide

/-- Rule R163's example. -/
theorem test_IN_time : let t := after (step ({ start [0x0019#16, 0x0003#16, 0x0005#16] with time := 4#16 }))
    t.x[2] = 4#16 ∧ t.time = 5#16 ∧ t.pc = 3#16 := by decide

/-- TV13. -/
theorem test_IN_order : let t := after (step (start [0x0019#16, 0x0000#16, 0x0009#16]))
    t.es = .faulted ∧ t.fc = .invalidRegister := by decide

/-- TV122's OUT. -/
theorem test_OUT_video : let t := after (step (startAB [0x001A#16, 0x0001#16, 0x0004#16] 0xFFFF#16 0x0000#16))
    t.video = 0xFFFF#16 ∧ t.pc = 3#16 ∧ t.port = State.reset.port := by decide

/-- TV126. -/
theorem test_OUT_time : let t := after (step (start [0x001A#16, 0x0001#16, 0x0005#16]))
    t.es = .faulted ∧ t.fc = .invalidPort ∧ t.time = 0#16 := by decide

/-! ### Fetch, commands and devices -/

/-- TV6: InvalidOpcode outranks the operand fetch. -/
theorem test_fetch_illegal_at_top : let t := after (step (loaded [0xFFFF#16] 32767 State.reset))
    t.es = .faulted ∧ t.fc = .invalidOpcode ∧ t.pc = 32767#16 := by decide

/-- TV5: the operand fetch outranks InvalidRegister. -/
theorem test_fetch_operands_past_end : let t := after (step (loaded [0x0001#16, 0x0000#16] 32766 State.reset))
    t.es = .faulted ∧ t.fc = .outOfBounds ∧ t.pc = 32766#16 ∧ t.time = 0#16 := by decide

/-- TV139. -/
theorem test_fetch_above_memory : let t := after (step (loaded [] 32768 State.reset))
    t.es = .faulted ∧ t.fc = .outOfBounds ∧ t.pc = 32768#16 ∧ t.time = 0#16 := by decide

/-- TV135 and TV136. -/
theorem test_loadProgram_limit :
    (loadProgram [1#16, 2#16, 3#16, 4#16, 5#16] 32764 State.reset) = (State.reset, .programTooLarge) ∧
    (loadProgram [1#16, 2#16, 3#16, 4#16] 32764 State.reset).2 = .done ∧
    (loadProgram [1#16, 2#16, 3#16, 4#16] 32764 State.reset).1.mem.read 32767 = 4#16 := by decide

/-- Rule R12: the collaborator's character code is the low byte of the word at `video + k`. -/
theorem test_displayCode :
    displayCode { start [0x0041#16, 0xAB48#16] with video := 0#16 } 1 = some 0x48#8 ∧
    displayCode { start [] with video := 0xFFFF#16 } 0 = none := by decide

/-! ### Witnesses: the hypotheses of every statement can be met -/

/-- A machine with that stack pointer. -/
def atSp (sp : Word) : State := { State.reset with sp := sp }

theorem witness_LoadProgramInitialises :
    32764 + [1#16, 2#16, 3#16, 4#16].length ≤ 32768 ∧
    32768 + ([] : List Word).length ≤ 32768 := by decide

theorem witness_LoadProgramTooLargeChangesNothing :
    32768 < 32764 + [1#16, 2#16, 3#16, 4#16, 5#16].length ∧
    32768 < 32769 + ([] : List Word).length := by decide

theorem witness_LoadedProgramRunsItsFirstInstruction :
    32767 + (encode .halt ++ []).length ≤ 32768 ∧
    ∃ t, perform (.loadProgram (encode .halt ++ []) 32767) State.reset = .next (t, .done) :=
  ⟨by decide, _, rfl⟩

theorem witness_MemoryReadsBackWhatIsWritten :
    (32767#16 : Word).toNat < 32768 ∧
    32768 ≤ (32768#16 : Word).toNat := by decide

theorem witness_MemoryIsDeterminedByItsReads :
    Memory.wf [(0, 1#16), (32767, 5#16)] = true ∧
    ∀ a, Memory.read [(0, 1#16), (32767, 5#16)] a = Memory.read [(0, 1#16), (32767, 5#16)] a :=
  ⟨by decide, fun _ => rfl⟩

theorem witness_RegisterWordSelectsOneToFifteen :
    (1#16 : Word).toNat = (0 : RegIdx).val + 1 ∧
    (15#16 : Word).toNat = (14 : RegIdx).val + 1 ∧
    ¬ (1 ≤ (0#16 : Word).toNat ∧ (0#16 : Word).toNat ≤ 15) ∧
    ¬ (1 ≤ (16#16 : Word).toNat ∧ (16#16 : Word).toNat ≤ 15) := by decide

theorem witness_StackPrimitives :
    (32513 ≤ (atSp 32513#16).sp.toNat ∧ (atSp 32767#16).sp.toNat ≤ 32767) ∧
    (atSp 32512#16).sp.toNat < 32513 ∧ (atSp 32766#16).sp.toNat < 32767 ∧
    32767 ≤ (atSp 32767#16).sp.toNat ∧ ∃ t, push 9#16 (atSp 32513#16) = .ok t :=
  ⟨by decide, by decide, by decide, by decide, _, rfl⟩

theorem witness_StackHolds255Words :
    (atSp 32767#16).sp.toNat = 32767 ∧
    (List.replicate 255 1#16).length = 255 := ⟨by decide, List.length_replicate⟩

theorem witness_OpcodeDecidesLength :
    0x001A < (0x001B#16 : Word).toNat ∧
    (0x001A#16 : Word).toNat ≤ 0x001A ∧
    [1#16].length + 1 < lenOfOpcode (0x001A#16 : Word).toNat ∧
    lenOfOpcode (0x001A#16 : Word).toNat ≤ [1#16, 1#16].length + 1 ∧
    lenOfOpcode (0x0000#16 : Word).toNat ≤ ([] : List Word).length + 1 := by decide

theorem witness_EncodeAndDecodeAgree :
    ∃ i rest, decode [0x0019#16, 3#16, 5#16, 0#16] = .ok (i, rest) := ⟨_, _, rfl⟩

theorem witness_LoadImmediateToRegister :
    (1#16 : Word).toNat = (0 : RegIdx).val + 1 ∧
    (15#16 : Word).toNat = (14 : RegIdx).val + 1 ∧
    ¬ (1 ≤ (0#16 : Word).toNat ∧ (0#16 : Word).toNat ≤ 15) ∧
    ¬ (1 ≤ (16#16 : Word).toNat ∧ (16#16 : Word).toNat ≤ 15) := by decide

theorem witness_MoveRegisterToRegister :
    (1#16 : Word).toNat = (0 : RegIdx).val + 1 ∧
    (15#16 : Word).toNat = (14 : RegIdx).val + 1 ∧
    ¬ (1 ≤ (0#16 : Word).toNat ∧ (0#16 : Word).toNat ≤ 15) ∧
    ¬ (1 ≤ (16#16 : Word).toNat ∧ (16#16 : Word).toNat ≤ 15) := by decide

theorem witness_MoveAccumulatorToRegister :
    (1#16 : Word).toNat = (0 : RegIdx).val + 1 ∧
    (15#16 : Word).toNat = (14 : RegIdx).val + 1 ∧
    ¬ (1 ≤ (0#16 : Word).toNat ∧ (0#16 : Word).toNat ≤ 15) ∧
    ¬ (1 ≤ (16#16 : Word).toNat ∧ (16#16 : Word).toNat ≤ 15) := by decide

theorem witness_MoveRegisterToAccumulator :
    (1#16 : Word).toNat = (0 : RegIdx).val + 1 ∧
    (15#16 : Word).toNat = (14 : RegIdx).val + 1 ∧
    ¬ (1 ≤ (0#16 : Word).toNat ∧ (0#16 : Word).toNat ≤ 15) ∧
    ¬ (1 ≤ (16#16 : Word).toNat ∧ (16#16 : Word).toNat ≤ 15) := by decide

theorem witness_AddSubMulTruncate :
    (1#16 : Word).toNat = (0 : RegIdx).val + 1 ∧
    (15#16 : Word).toNat = (14 : RegIdx).val + 1 ∧
    ¬ (1 ≤ (0#16 : Word).toNat ∧ (0#16 : Word).toNat ≤ 15) ∧
    ¬ (1 ≤ (16#16 : Word).toNat ∧ (16#16 : Word).toNat ≤ 15) := by decide

theorem witness_CompareRegisters :
    (1#16 : Word).toNat = (0 : RegIdx).val + 1 ∧
    (15#16 : Word).toNat = (14 : RegIdx).val + 1 ∧
    ¬ (1 ≤ (0#16 : Word).toNat ∧ (0#16 : Word).toNat ≤ 15) ∧
    ¬ (1 ≤ (16#16 : Word).toNat ∧ (16#16 : Word).toNat ≤ 15) := by decide

theorem witness_LoadMemoryToRegister :
    (1#16 : Word).toNat = (0 : RegIdx).val + 1 ∧
    (15#16 : Word).toNat = (14 : RegIdx).val + 1 ∧
    ¬ (1 ≤ (0#16 : Word).toNat ∧ (0#16 : Word).toNat ≤ 15) ∧
    ¬ (1 ≤ (16#16 : Word).toNat ∧ (16#16 : Word).toNat ≤ 15) ∧
    1 ≤ (1#16 : Word).toNat ∧
    (15#16 : Word).toNat ≤ 15 ∧
    (32767#16 : Word).toNat < 32768 ∧
    32768 ≤ (32768#16 : Word).toNat := by decide

theorem witness_StoreRegister :
    (1#16 : Word).toNat = (0 : RegIdx).val + 1 ∧
    (15#16 : Word).toNat = (14 : RegIdx).val + 1 ∧
    ¬ (1 ≤ (0#16 : Word).toNat ∧ (0#16 : Word).toNat ≤ 15) ∧
    ¬ (1 ≤ (16#16 : Word).toNat ∧ (16#16 : Word).toNat ≤ 15) ∧
    1 ≤ (1#16 : Word).toNat ∧
    (15#16 : Word).toNat ≤ 15 ∧
    (32767#16 : Word).toNat < 32768 ∧
    32768 ≤ (32768#16 : Word).toNat := by decide

theorem witness_LoadMemoryToAccumulator :
    (32767#16 : Word).toNat < 32768 ∧
    32768 ≤ (32768#16 : Word).toNat := by decide

theorem witness_StoreAccumulator :
    (32767#16 : Word).toNat < 32768 ∧
    32768 ≤ (32768#16 : Word).toNat := by decide

theorem witness_DivModUnsigned :
    (1#16 : Word).toNat = (0 : RegIdx).val + 1 ∧
    (15#16 : Word).toNat = (14 : RegIdx).val + 1 ∧
    ¬ (1 ≤ (0#16 : Word).toNat ∧ (0#16 : Word).toNat ≤ 15) ∧
    ¬ (1 ≤ (16#16 : Word).toNat ∧ (16#16 : Word).toNat ≤ 15) ∧
    (startAB [] 7#16 1#16).x[(1 : RegIdx)].toNat ≠ 0 ∧
    (startAB [] 7#16 0#16).x[(1 : RegIdx)].toNat = 0 := by decide

theorem witness_CallPushesReturnAddress :
    32513 ≤ (atSp 32513#16).sp.toNat ∧
    (atSp 32767#16).sp.toNat ≤ 32767 ∧
    (atSp 32512#16).sp.toNat = 32512 := by decide

theorem witness_ReturnPopsIntoPc :
    (atSp 32766#16).sp.toNat < 32767 ∧
    (atSp 32767#16).sp.toNat = 32767 := by decide

theorem witness_ReturnUndoesCall :
    (atSp 32513#16).sp.toNat ≤ 32767 ∧
    ∃ t, exec (.call 5#16) (atSp 32513#16) = .next t ∧ t.es ≠ .faulted :=
  ⟨by decide, _, rfl, by decide⟩

theorem witness_PushStoresRegister :
    (1#16 : Word).toNat = (0 : RegIdx).val + 1 ∧
    (15#16 : Word).toNat = (14 : RegIdx).val + 1 ∧
    ¬ (1 ≤ (0#16 : Word).toNat ∧ (0#16 : Word).toNat ≤ 15) ∧
    ¬ (1 ≤ (16#16 : Word).toNat ∧ (16#16 : Word).toNat ≤ 15) ∧
    1 ≤ (1#16 : Word).toNat ∧
    (15#16 : Word).toNat ≤ 15 ∧
    32513 ≤ (atSp 32513#16).sp.toNat ∧
    (atSp 32767#16).sp.toNat ≤ 32767 ∧
    (atSp 32512#16).sp.toNat = 32512 := by decide

theorem witness_PopLoadsRegister :
    (1#16 : Word).toNat = (0 : RegIdx).val + 1 ∧
    (15#16 : Word).toNat = (14 : RegIdx).val + 1 ∧
    ¬ (1 ≤ (0#16 : Word).toNat ∧ (0#16 : Word).toNat ≤ 15) ∧
    ¬ (1 ≤ (16#16 : Word).toNat ∧ (16#16 : Word).toNat ≤ 15) ∧
    1 ≤ (1#16 : Word).toNat ∧
    (15#16 : Word).toNat ≤ 15 ∧
    (atSp 32766#16).sp.toNat < 32767 ∧
    (atSp 32767#16).sp.toNat = 32767 := by decide

theorem witness_InReadsPortSpace :
    (1#16 : Word).toNat = (0 : RegIdx).val + 1 ∧
    (15#16 : Word).toNat = (14 : RegIdx).val + 1 ∧
    ¬ (1 ≤ (0#16 : Word).toNat ∧ (0#16 : Word).toNat ≤ 15) ∧
    ¬ (1 ≤ (16#16 : Word).toNat ∧ (16#16 : Word).toNat ≤ 15) ∧
    (0#16 : Word).toNat = (0 : Fin 4).val ∧
    (3#16 : Word).toNat = (3 : Fin 4).val ∧
    (4#16 : Word).toNat = 4 ∧
    (5#16 : Word).toNat = 5 ∧
    5 < (6#16 : Word).toNat := by decide

theorem witness_OutWritesPortSpace :
    (1#16 : Word).toNat = (0 : RegIdx).val + 1 ∧
    (15#16 : Word).toNat = (14 : RegIdx).val + 1 ∧
    ¬ (1 ≤ (0#16 : Word).toNat ∧ (0#16 : Word).toNat ≤ 15) ∧
    ¬ (1 ≤ (16#16 : Word).toNat ∧ (16#16 : Word).toNat ≤ 15) ∧
    (0#16 : Word).toNat = (0 : Fin 4).val ∧
    (3#16 : Word).toNat = (3 : Fin 4).val ∧
    (4#16 : Word).toNat = 4 ∧
    4 < (5#16 : Word).toNat := by decide

theorem witness_HaltStopsTheMachine : ∃ t, exec .halt State.reset = .next t := ⟨_, rfl⟩

theorem witness_StepRunsTheDecodedInstruction :
    (start [0x0003#16, 0xDEAD#16]).es = .running ∧
    decode (fetchWords (start [0x0003#16, 0xDEAD#16])) = .ok (.loadAI 0xDEAD#16, [0#16]) ∧
    (loaded [0x0003#16, 0xDEAD#16] 32766 State.reset).pc.toNat + (Instr.loadAI 0xDEAD#16).len ≤ 32768 ∧
    (loaded [0x0003#16, 0xDEAD#16] 32766 State.reset).mem.read 32766 = 0x0003#16 ∧
    (loaded [0x0003#16, 0xDEAD#16] 32766 State.reset).mem.read 32767 = 0xDEAD#16 := by decide

theorem witness_PlacedInstructionRunsNext : decodeTableWord 16 0x0016 = some .ret := by decide

theorem witness_StepIsIdleUnlessRunning : (after (step State.reset)).es ≠ .running := by decide

theorem witness_EndOfRunIsStable : (after (step (start [0x001B#16]))).es ≠ .running := by decide

theorem witness_FetchAndDecodeFaults :
    (loaded [] 32768 State.reset).es = .running ∧ 32768 ≤ (loaded [] 32768 State.reset).pc.toNat ∧
    (loaded [0x001B#16] 32767 State.reset).pc.toNat < 32768 ∧
    0x001A < ((loaded [0x001B#16] 32767 State.reset).mem.read 32767).toNat ∧
    ((loaded [0x001A#16] 32766 State.reset).mem.read 32766).toNat ≤ 0x001A ∧
    32768 < (loaded [0x001A#16] 32766 State.reset).pc.toNat +
      lenOfOpcode ((loaded [0x001A#16] 32766 State.reset).mem.read 32766).toNat := by decide

theorem witness_FirstFailingCheckDecides :
    (start [0x001B#16]).es = .running ∧ 32512 ≤ (atSp 32512#16).sp.toNat ∧
    (start [0x001B#16]).sp.toNat ≤ 32767 ∧
    decode (fetchWords (start [0x001B#16])) = .error .invalidOpcode ∧
    decode (fetchWords (start [0x000D#16, 1#16, 2#16])) = .ok (.div 1#16 2#16, []) ∧
    firstFault (.div 1#16 2#16) (start [0x000D#16, 1#16, 2#16]) = some .arithmeticFault ∧
    decode (fetchWords (start [0x0003#16, 1#16])) = .ok (.loadAI 1#16, [0#16]) ∧
    firstFault (.loadAI 1#16) (start [0x0003#16, 1#16]) = none := by decide

theorem witness_WellFormedMeansLegalOperands :
    State.reset.es = .running ∧ 32512 ≤ State.reset.sp.toNat ∧ State.reset.sp.toNat ≤ 32767 ∧
    (∃ t, exec (.push 0#16) State.reset = .next t) ∧ Instr.wellFormed (.push 0#16) = false ∧
    (∃ t, exec .ret State.reset = .next t ∧ t.es = .faulted) ∧ Instr.wellFormed .ret = true :=
  ⟨by decide, by decide, by decide, ⟨_, rfl⟩, by decide, ⟨_, rfl, by decide⟩, by decide⟩

theorem witness_FaultChangesOnlyEsAndFc :
    (start [0x001B#16]).es = .running ∧ ∃ t, step (start [0x001B#16]) = .next t ∧ t.es = .faulted :=
  ⟨by decide, _, rfl, by decide⟩

theorem witness_FaultIsReproducible :
    (start [0x0016#16]).es = .running ∧ (start [0x0016#16]).fc = .noFault ∧
    ∃ t, step (start [0x0016#16]) = .next t ∧ t.es = .faulted :=
  ⟨by decide, by decide, _, rfl, by decide⟩

theorem witness_WriteEnablesFrame :
    (∃ t, exec (.push 1#16) State.reset = .next t) ∧ storedAddr (.push 1#16) State.reset ≠ some 0 ∧
    (∃ t, exec (.inp 1#16 0#16) State.reset = .next t ∧ t.es ≠ .faulted) ∧
    (∀ d, destWord (.inp 1#16 0#16) = some d → d.toNat ≠ (1 : RegIdx).val + 1) ∧
    writesAcc (.push 1#16) = false ∧ writesFlags (.push 1#16) = false ∧
    writesSp (.inp 1#16 0#16) = false ∧ outPort (.out 1#16 3#16) ≠ some (2 : Fin 4).val ∧
    outPort (.out 1#16 3#16) ≠ some 4 ∧ Instr.ret ≠ .halt :=
  ⟨⟨_, rfl⟩, by decide, ⟨_, rfl, by decide⟩, by rintro d ⟨⟩; decide, by decide, by decide, by decide,
    by decide, by decide, by decide⟩

theorem witness_PcAtCommit :
    (start [0x0010#16, 0xFFFF#16]).es = .running ∧
    decode (fetchWords (start [0x0010#16, 0xFFFF#16])) = .ok (.jmp 0xFFFF#16, [0#16]) ∧
    (∃ t, step (start [0x0010#16, 0xFFFF#16]) = .next t ∧ t.es ≠ .faulted) ∧
    jumpTarget (.jmp 0xFFFF#16) (start [0x0010#16, 0xFFFF#16]) = some 0xFFFF#16 ∧
    decode (fetchWords (loaded [0#16] 32767 State.reset)) = .ok (.halt, []) ∧
    (∃ t, step (loaded [0#16] 32767 State.reset) = .next t ∧ t.es ≠ .faulted) ∧
    jumpTarget .halt (loaded [0#16] 32767 State.reset) = none :=
  ⟨by decide, by decide, ⟨_, rfl, by decide⟩, by decide, by decide, ⟨_, rfl, by decide⟩, by decide⟩

theorem witness_PcLeavesMemoryOnlySo :
    (loaded [0#16] 32767 State.reset).es = .running ∧ (loaded [0#16] 32767 State.reset).pc.toNat < 32768 ∧
    ∃ t, step (loaded [0#16] 32767 State.reset) = .next t ∧ 32768 ≤ t.pc.toNat :=
  ⟨by decide, by decide, _, rfl, by decide⟩

theorem witness_TimeTicksOncePerCompletedStep :
    (∃ t, step State.reset = .next t ∧ State.reset.es = .running ∧ t.es ≠ .faulted) ∧
    (∃ t, step (start [0x0016#16]) = .next t ∧ t.es = .faulted) ∧
    (after (step State.reset)).es ≠ .running ∧ (1#16 : Word).toNat = (0 : RegIdx).val + 1 ∧
    ∃ t, exec (.inp 1#16 5#16) State.reset = .next t :=
  ⟨⟨_, rfl, by decide, by decide⟩, ⟨_, rfl, by decide⟩, by decide, by decide, _, rfl⟩

theorem witness_TimeCountsTheStepsOfARun :
    ∃ t, Host.Core.run Sys2Proof.core 2 (start [0x0010#16, 0#16]) = .next t ∧ t.es = .running :=
  ⟨_, rfl, by decide⟩

theorem witness_EngineStateMachine :
    State.reset.es = .running ∧ (∃ t, step State.reset = .next t ∧ t.es = .halted) ∧
    (∃ t, step (start [0x0016#16]) = .next t ∧ t.es = .faulted) ∧
    (after (step State.reset)).es ≠ .running ∧
    (∃ t, perform .reset (start [1#16]) = .next (t, .done)) ∧
    (∃ t, perform (.loadProgram [1#16] 32767) State.reset = .next (t, .done)) ∧
    ∃ t, perform (.loadProgram [1#16] 32768) State.reset = .next (t, .programTooLarge) :=
  ⟨by decide, ⟨_, rfl, by decide⟩, ⟨_, rfl, by decide⟩, by decide, ⟨_, rfl⟩, ⟨_, rfl⟩, _, rfl⟩

theorem witness_StoredWordIsFetched :
    (1#16 : Word).toNat = (0 : RegIdx).val + 1 ∧ (32767#16 : Word).toNat < 32768 ∧
    ∃ t, exec (.storeR 1#16 32767#16) State.reset = .next t ∧
      ({ t with pc := 32767#16 } : State).mem = t.mem ∧ ({ t with pc := 32767#16 } : State).pc = 32767#16 :=
  ⟨by decide, by decide, _, rfl, rfl, rfl⟩

theorem witness_PortsAreIsolated :
    (∀ d port, Instr.add 1#16 2#16 ≠ .inp d port) ∧ (∀ src port, Instr.add 1#16 2#16 ≠ .out src port) ∧
    ∃ t, exec (.add 1#16 2#16) State.reset = .next t :=
  ⟨by simp, by simp, _, rfl⟩

/-- A machine about to PUSH meets the invariant. -/
theorem witness_StepKeepsInvariant :
    Inv (start [0x0017#16, 1#16]) ∧ ∃ t, step (start [0x0017#16, 1#16]) = .next t :=
  ⟨⟨by decide, by decide, by decide, by decide, by decide, by decide, by decide⟩, _, rfl⟩

/-- So does a halted one, and some state is reachable. -/
theorem witness_ReachableStatesMeetInvariant :
    Inv (after (step State.reset)) ∧
    (∃ t, occurAll [.device 3 7#16, .command (.loadProgram [0x0016#16] 0), .command .execute]
      (after (step State.reset)) = .next t) ∧ ∃ s, Reachable s :=
  ⟨⟨by decide, by decide, by decide, by decide, by decide, by decide, by decide⟩, ⟨_, rfl⟩,
    State.reset, [], rfl⟩

end Sys2Proof.Tests
end

section
/-!
SUPPORT. Facts the proofs of every family can use: what the words at `pc` say about a decoded
instruction, and what a handler that completes has written (rules R97 to R101), said once for all
27 instructions.
-/

namespace Sys2Proof

/-! ### The words of a decoded instruction -/

/-- An instruction's encoding has as many words as the length column says (rule R78). -/
theorem length_encode (i : Instr) : (encode i).length = i.len := by cases i <;> rfl

theorem Instr.len_pos (i : Instr) : 0 < i.len := by cases i <;> exact Nat.succ_pos _

section
variable {op : Word} {ws rest : List Word} {i : Instr}

theorem eq_encode_of_decode0 {i₀ : Instr} (henc : encode i₀ = [op])
    (h : decode0 i₀ ws = .ok (i, rest)) : op :: ws = encode i ++ rest := by
  cases h
  rw [henc]
  rfl

theorem eq_encode_of_decode1 {f : Word → Instr} (henc : ∀ w, encode (f w) = [op, w])
    (h : decode1 f ws = .ok (i, rest)) : op :: ws = encode i ++ rest := by
  match ws, h with
  | w :: _, rfl => rw [henc]; rfl

theorem eq_encode_of_decode2 {f : Word → Word → Instr} (henc : ∀ v w, encode (f v w) = [op, v, w])
    (h : decode2 f ws = .ok (i, rest)) : op :: ws = encode i ++ rest := by
  match ws, h with
  | v :: w :: _, rfl => rw [henc]; rfl
end

/-- What decodes is an encoding, with the undecoded words behind it: one case per row of the opcode
map, by its format. -/
theorem eq_encode_of_decode {ws rest : List Word} {i : Instr} (h : decode ws = .ok (i, rest)) :
    ws = encode i ++ rest := by
  cases ws with
  | nil => cases h
  | cons op ws =>
    simp only [decode] at h
    split at h
    case h_1 | h_23 => exact eq_encode_of_decode0 rfl h
    case h_4 | h_5 | h_7 | h_9 | h_10 | h_17 | h_18 | h_19 | h_20 | h_21 | h_22 | h_24 | h_25 =>
      exact eq_encode_of_decode1 (fun _ => rfl) h
    case h_2 | h_3 | h_6 | h_8 | h_11 | h_12 | h_13 | h_14 | h_15 | h_16 | h_26 | h_27 =>
      exact eq_encode_of_decode2 (fun _ _ => rfl) h
    case h_28 => cases h

end Sys2Proof

namespace Sys2Proof.Machine

/-- The fetch sees no more words than lie between `pc` and the end of memory. -/
theorem Memory.length_wordsFrom_le (m : Memory) (n a : Nat) :
    (m.wordsFrom n a).length ≤ 32768 - a := by
  induction n generalizing a with
  | zero => simp
  | succ n ih =>
    rw [Memory.wordsFrom_succ]
    split
    · have := ih (a + 1)
      simp only [List.length_cons]
      omega
    · simp

/-- A decoded instruction lies inside memory with its last word (rule R95). -/
theorem pc_add_len_le_of_fetchDecode {s : State} {i : Instr} (h : fetchDecode s = .ok i) :
    s.pc.toNat + i.len ≤ 32768 := by
  obtain ⟨rest, hdec⟩ := (fetchDecode_ok_iff s i).1 h
  have hlen : i.len ≤ (fetchWords s).length := by
    rw [eq_encode_of_decode hdec, List.length_append, length_encode]
    omega
  have hmem : (fetchWords s).length ≤ 32768 - s.pc.toNat := Memory.length_wordsFrom_le ..
  have := i.len_pos
  omega

/-- The word at `pc` is the opcode word of the decoded instruction (rule R77). -/
theorem read_pc_of_fetchDecode {s : State} {i : Instr} (h : fetchDecode s = .ok i) :
    (encode i).head? = some (s.mem.read s.pc.toNat) := by
  obtain ⟨rest, hdec⟩ := (fetchDecode_ok_iff s i).1 h
  have hpc : s.pc.toNat < 32768 := by
    have := pc_add_len_le_of_fetchDecode h
    have := i.len_pos
    omega
  have hwords : (fetchWords s).head? = some (s.mem.read s.pc.toNat) := by
    simp [fetchWords, Memory.wordsFrom_succ, hpc]
  rw [eq_encode_of_decode hdec] at hwords
  cases i <;> exact hwords

/-! ### The shared operations, when they complete -/

theorem memWrite_eq_ok {addr v : Word} {s t : State} (h : memWrite addr v s = .ok t) :
    addr.toNat < 32768 ∧ t = { s with mem := s.mem.write addr.toNat v } := by
  rcases memWrite_cases addr v s with ⟨ha, e⟩ | ⟨-, e⟩ <;> cases e.symm.trans h
  exact ⟨ha, rfl⟩

theorem push_eq_ok {v : Word} {s t : State} (h : push v s = .ok t) :
    32513 ≤ s.sp.toNat ∧ s.sp.toNat < 32768 ∧
      t = { s with mem := s.mem.write s.sp.toNat v, sp := s.sp - 1#16 } := by
  rcases push_cases v s with ⟨hlo, hhi, e⟩ | ⟨-, e⟩ | ⟨-, e⟩ <;> cases e.symm.trans h
  exact ⟨hlo, hhi, rfl⟩

theorem pop_eq_ok {s t : State} {v : Word} (h : pop s = .ok (v, t)) :
    s.sp.toNat < 32767 ∧ v = s.mem.read (s.sp.toNat + 1) ∧ t = { s with sp := s.sp + 1#16 } := by
  rcases pop_cases s with ⟨hsp, e⟩ | ⟨-, e⟩ <;> cases e.symm.trans h
  exact ⟨hsp, rfl, rfl⟩

/-! ### What a completed instruction is -/

/-- The engine's commit of the state `u` that the handler of `i` built from `s`: the `pc` the handler
produced, or the advance by the length, and the tick (rules R99, R100). -/
def commit (i : Instr) (s u : State) : State :=
  match jumpTarget i s with
  | some target => commitJump target u
  | none => commitNext i.len u

section
variable (i : Instr) (s u : State)

@[simp] theorem commit_mem : (commit i s u).mem = u.mem := by unfold commit; split <;> rfl
@[simp] theorem commit_sp : (commit i s u).sp = u.sp := by unfold commit; split <;> rfl
@[simp] theorem commit_flags : (commit i s u).flags = u.flags := by unfold commit; split <;> rfl
@[simp] theorem commit_time : (commit i s u).time = u.time + 1#16 := by unfold commit; split <;> rfl
@[simp] theorem commit_es : (commit i s u).es = u.es := by unfold commit; split <;> rfl
@[simp] theorem commit_fc : (commit i s u).fc = u.fc := by unfold commit; split <;> rfl

theorem commit_of_jump {target : Word} (h : jumpTarget i s = some target) :
    commit i s u = commitJump target u := by simp [commit, h]

theorem commit_of_no_jump (h : jumpTarget i s = none) : commit i s u = commitNext i.len u := by
  simp [commit, h]
end

/-- What the handler of `i` may have written in `u` when it completes from `s`, before the commit. A field
the handler leaves alone holds by `simp`. -/
structure HandlerWrites (i : Instr) (s u : State) : Prop where
  /-- `pc` is the commit's (rule R99) -/
  pc : u.pc = s.pc := by simp
  /-- so is `time` (rule R100) -/
  time : u.time = s.time := by simp
  /-- `fc` is written by a fault only (rule R101) -/
  fc : u.fc = s.fc := by simp
  /-- HALT alone stops the machine (rule R170) -/
  es : u.es = if i = .halt then .halted else s.es := by simp
  /-- memory is kept, or one word of the table is stored in it (rules R53, R97) -/
  mem : u.mem = s.mem ∨
    ∃ a v, storedAddr i s = some a ∧ a < 32768 ∧ u.mem = s.mem.write a v := by simp
  /-- `sp` is kept, or moved by a push or a pop inside the stack region (rules R150, R151) -/
  sp : u.sp = s.sp ∨ (32513 ≤ s.sp.toNat ∧ u.sp = s.sp - 1#16) ∨
    (s.sp.toNat < 32767 ∧ u.sp = s.sp + 1#16) := by simp
  /-- the flags are kept, or are those of a comparison (rules R33, R120, R131) -/
  flags : u.flags = s.flags ∨ ∃ a b, u.flags = setFlagsCompare a b := by simp

/-- The outcome `o` of `i` from `s` is a fault taken, or the commit of what the handler wrote. -/
def Answers (i : Instr) (s : State) (o : Host.Outcome State Fault Refusal) : Prop :=
  (∃ f, o = .next (raise f s)) ∨ ∃ u, HandlerWrites i s u ∧ o = .next (commit i s u)

section
variable {i : Instr} {s u : State}

/-- A handler that begins with an operation: if the operation faults, the fault is taken; else the rest
of the handler decides. -/
theorem Answers.bind {α : Type} {e : Except ExecFault α} {k : α → Except ExecFault State}
    (h : ∀ a, e = .ok a → Answers i s (outcome s (k a))) : Answers i s (outcome s (e >>= k)) := by
  cases e with
  | error f => exact .inl ⟨f, rfl⟩
  | ok a => exact h a rfl

theorem Answers.next (hj : jumpTarget i s = none) (hu : HandlerWrites i s u) :
    Answers i s (outcome s (.ok (commitNext i.len u))) :=
  .inr ⟨u, hu, by rw [commit_of_no_jump i s u hj, outcome_ok]⟩

theorem Answers.jump {target : Word} (hj : jumpTarget i s = some target) (hu : HandlerWrites i s u) :
    Answers i s (outcome s (.ok (commitJump target u))) :=
  .inr ⟨u, hu, by rw [commit_of_jump i s u hj, outcome_ok]⟩

/-- The four conditional jumps (rules R141 to R144). -/
theorem Answers.jumpIf {cond : Bool} {target : Word} (hlen : i.len = 2)
    (hj : jumpTarget i s = if cond then some target else none) (hs : HandlerWrites i s s) :
    Answers i s (jumpIf cond target s) := by
  cases cond with
  | true => exact .jump hj hs
  | false =>
    rw [Machine.jumpIf, ← hlen]
    exact .next hj hs

/-- The five arithmetic instructions (rules R120, R128). -/
theorem Answers.arithmetic {alu : Word → Word → Except ExecFault Word} {a b : Word} (hlen : i.len = 3)
    (hj : jumpTarget i s = none) (hi : i ≠ .halt) : Answers i s (arithmetic alu a b s) := by
  rw [Machine.arithmetic, ← hlen]
  refine .bind fun ⟨ra, rb⟩ _ => .bind fun r _ => .next hj ?_
  exact { es := by simp [hi], flags := .inr ⟨r, 0#16, rfl⟩ }
end

/-- Every instruction, from every state, takes a fault or commits what its handler may write. -/
theorem exec_answers (i : Instr) (s : State) : Answers i s (exec i s) := by
  cases i with
  | halt => exact .next (u := { s with es := .halted }) rfl {}
  | loadRI d imm => exact .bind fun r _ => .next rfl {}
  | loadRM d addr => exact .bind fun r _ => .bind fun v _ => .next rfl {}
  | loadAI imm => exact .next (u := { s with acc := imm }) rfl {}
  | loadAM addr => exact .bind fun v _ => .next rfl {}
  | storeR src addr =>
    refine .bind fun r _ => .bind fun t ht => ?_
    obtain ⟨ha, rfl⟩ := memWrite_eq_ok ht
    exact .next rfl { mem := .inr ⟨_, _, rfl, ha, rfl⟩ }
  | storeA addr =>
    refine .bind fun t ht => ?_
    obtain ⟨ha, rfl⟩ := memWrite_eq_ok ht
    exact .next rfl { mem := .inr ⟨_, _, rfl, ha, rfl⟩ }
  | movRR d src => exact .bind fun ⟨rd, rs⟩ _ => .next rfl {}
  | movRA d => exact .bind fun r _ => .next rfl {}
  | movAR src => exact .bind fun r _ => .next rfl {}
  | add a b | sub a b | mul a b | div a b | mod a b => exact .arithmetic rfl rfl (by simp)
  | cmp a b => exact .bind fun ⟨ra, rb⟩ _ => .next rfl { flags := .inr ⟨_, _, rfl⟩ }
  | jmp target => exact .jump rfl {}
  | jz target | jg target | jl target | je target => exact .jumpIf rfl rfl {}
  | call target =>
    refine .bind fun t ht => ?_
    obtain ⟨hlo, hhi, rfl⟩ := push_eq_ok ht
    exact .jump rfl { mem := .inr ⟨_, _, rfl, hhi, rfl⟩, sp := .inr (.inl ⟨hlo, rfl⟩) }
  | ret =>
    refine .bind fun ⟨v, t⟩ ht => ?_
    obtain ⟨hsp, rfl, rfl⟩ := pop_eq_ok ht
    exact .jump rfl { sp := .inr (.inr ⟨hsp, rfl⟩) }
  | push src =>
    refine .bind fun r _ => .bind fun t ht => ?_
    obtain ⟨hlo, hhi, rfl⟩ := push_eq_ok ht
    exact .next rfl { mem := .inr ⟨_, _, rfl, hhi, rfl⟩, sp := .inr (.inl ⟨hlo, rfl⟩) }
  | pop d =>
    refine .bind fun r _ => .bind fun ⟨v, t⟩ ht => ?_
    obtain ⟨hsp, rfl, rfl⟩ := pop_eq_ok ht
    exact .next rfl { sp := .inr (.inr ⟨hsp, rfl⟩) }
  | inp d port => exact .bind fun r _ => .bind fun p _ => .next rfl {}
  | out src port => exact .bind fun r _ => .bind fun p _ => .next rfl {}

/-- A step of a Running machine takes a fault, or commits what the handler of the decoded instruction
wrote. -/
theorem step_running_cases {s t : State} (hs : s.es = .running) (h : step s = .next t) :
    (∃ f, t = raise f s) ∨
      ∃ i u, fetchDecode s = .ok i ∧ HandlerWrites i s u ∧ t = commit i s u := by
  rcases step_cases s with ⟨hidle, -⟩ | ⟨-, f, -, e⟩ | ⟨-, i, hdec, e⟩
  · exact absurd hs hidle
  · cases e.symm.trans h
    exact .inl ⟨f, rfl⟩
  · rcases exec_answers i s with ⟨f, ef⟩ | ⟨u, hu, eu⟩
    · cases (e.trans ef).symm.trans h
      exact .inl ⟨f, rfl⟩
    · cases (e.trans eu).symm.trans h
      exact .inr ⟨i, u, hdec, hu, rfl⟩

/-- The advance over a decoded instruction does not wrap (rules R29, R99). -/
theorem pc_commit_of_no_jump {i : Instr} {s u : State} (hdec : fetchDecode s = .ok i)
    (hu : HandlerWrites i s u) (hj : jumpTarget i s = none) :
    (commit i s u).pc.toNat = s.pc.toNat + i.len := by
  have hend := pc_add_len_le_of_fetchDecode hdec
  rw [commit_of_no_jump i s u hj, commitNext_pc, hu.pc, BitVec.toNat_add, BitVec.toNat_ofNat]
  omega

/-- A machine that is not Running stays as it is (rule R91). -/
theorem step_of_not_running {s : State} (hs : s.es ≠ .running) : step s = .next s := by
  rcases step_cases s with ⟨-, e⟩ | ⟨hrun, -⟩ | ⟨hrun, -⟩
  · exact e
  · exact absurd hrun hs
  · exact absurd hrun hs

end Sys2Proof.Machine
end

section
/-!
SUPPORT and CERTIFICATES of the family 10_state.md: the machine invariant, `pc` at the end of memory, the
tick counter over a run, the registers, and the numeric codes.
-/

namespace Sys2Proof.Machine

/-! ### The machine invariant (rules R27, R31, R34, R40) -/

/-- Settles O2: every part of the invariant is a fact about the literal power-on state. -/
theorem resetMeetsInvariant : Obligations.ResetMeetsInvariant where
  mem_wf := rfl
  sp_low := by decide
  sp_high := by decide
  flags_legal := rfl
  fc_faulted := by decide
  fc_never_too_large := by decide
  halted_after_halt := by decide

/-- A fault taken by a machine keeps the invariant, for the cause is never NoFault or ProgramTooLarge. -/
theorem Inv.raise {s : State} (hs : Inv s) (f : ExecFault) : Inv (raise f s) where
  mem_wf := hs.mem_wf
  sp_low := hs.sp_low
  sp_high := hs.sp_high
  flags_legal := hs.flags_legal
  fc_faulted := iff_of_true rfl (cause_ne_noFault f)
  fc_never_too_large := cause_ne_programTooLarge f
  halted_after_halt := by simp

theorem Inv.fc_of_running {s : State} (hs : Inv s) (hrun : s.es = .running) : s.fc = .noFault := by
  by_contra hfc
  have hfaulted := hs.fc_faulted.2 hfc
  rw [hrun] at hfaulted
  cases hfaulted

namespace HandlerWrites
variable {i : Instr} {s u : State}

theorem wf_mem (h : HandlerWrites i s u) (hs : s.mem.wf = true) : u.mem.wf = true := by
  rcases h.mem with e | ⟨a, v, -, ha, e⟩ <;> rw [e]
  · exact hs
  · exact Memory.wf_write v ha hs

/-- A push moves `sp` down from 32513 at least, a pop up from below 32767 (rule R31). -/
theorem sp_in_region (h : HandlerWrites i s u) (hlo : 32512 ≤ s.sp.toNat) (hhi : s.sp.toNat ≤ 32767) :
    32512 ≤ u.sp.toNat ∧ u.sp.toNat ≤ 32767 := by
  rcases h.sp with e | ⟨hsp, e⟩ | ⟨hsp, e⟩ <;> rw [e]
  · exact ⟨hlo, hhi⟩
  · bv_omega
  · bv_omega

theorem legal_flags (h : HandlerWrites i s u) (hs : s.flags.legal = true) : u.flags.legal = true := by
  rcases h.flags with e | ⟨a, b, e⟩ <;> rw [e]
  · exact hs
  · exact setFlagsCompare_legal a b

/-- A handler never answers Faulted: only a raised fault does (rule R101). -/
theorem not_faulted (h : HandlerWrites i s u) (hs : s.es ≠ .faulted) : u.es ≠ .faulted := by
  rw [h.es]
  split
  · decide
  · exact hs

theorem eq_halt (h : HandlerWrites i s u) (hs : s.es ≠ .halted) (hu : u.es = .halted) : i = .halt := by
  by_contra hi
  rw [h.es, if_neg hi] at hu
  exact hs hu

theorem mem_of_halt (h : HandlerWrites .halt s u) : u.mem = s.mem := by
  rcases h.mem with e | ⟨a, v, ha, -⟩
  · exact e
  · cases ha

end HandlerWrites

/-- After a HALT that was fetched at `pc`, the committed `pc` is one past its word (rules R27, R170). -/
theorem commit_halt_after_halt {s u : State} (hdec : fetchDecode s = .ok .halt)
    (hu : HandlerWrites .halt s u) :
    1 ≤ (commit .halt s u).pc.toNat ∧ (commit .halt s u).pc.toNat ≤ 32768 ∧
      (commit .halt s u).mem.read ((commit .halt s u).pc.toNat - 1) = 0#16 := by
  have hend : s.pc.toNat + 1 ≤ 32768 := pc_add_len_le_of_fetchDecode hdec
  have hpc : (commit .halt s u).pc.toNat = s.pc.toNat + 1 := pc_commit_of_no_jump hdec hu rfl
  have hword : s.mem.read s.pc.toNat = 0#16 :=
    (Option.some.inj (read_pc_of_fetchDecode hdec)).symm
  rw [hpc, commit_mem, hu.mem_of_halt, Nat.add_sub_cancel]
  exact ⟨by omega, hend, hword⟩

/-- The commit of what a handler wrote keeps the invariant of a Running machine. -/
theorem Inv.commit {i : Instr} {s u : State} (hs : Inv s) (hrun : s.es = .running)
    (hdec : fetchDecode s = .ok i) (hu : HandlerWrites i s u) : Inv (commit i s u) := by
  have hfc : u.fc = .noFault := hu.fc.trans (hs.fc_of_running hrun)
  have hsp := hu.sp_in_region hs.sp_low hs.sp_high
  have hes : u.es ≠ .faulted := hu.not_faulted (by simp [hrun])
  refine ⟨?_, ?_, ?_, ?_, ?_, ?_, fun hhalted => ?_⟩
  · simpa using hu.wf_mem hs.mem_wf
  · simpa using hsp.1
  · simpa using hsp.2
  · simpa using hu.legal_flags hs.flags_legal
  · simp [hfc, hes]
  · simp [hfc]
  · rw [commit_es] at hhalted
    obtain rfl := hu.eq_halt (by simp [hrun]) hhalted
    exact commit_halt_after_halt hdec hu

/-- Settles O58: an idle step keeps the state, a fault changes `es` and `fc` together, and a completed
instruction commits a handler's writes, each of which stays inside the invariant. -/
theorem stepKeepsInvariant : Obligations.StepKeepsInvariant := by
  intro s t hs h
  by_cases hrun : s.es = .running
  · rcases step_running_cases hrun h with ⟨f, rfl⟩ | ⟨i, u, hdec, hu, rfl⟩
    · exact hs.raise f
    · exact hs.commit hrun hdec hu
  · cases (step_of_not_running hrun).symm.trans h
    exact hs

/-- Loading an image that fits meets the invariant: the image is written inside memory, and the rest is
as at power-on (rule R213). -/
theorem Inv.loaded {s : State} (hs : Inv s) {words : List Word} {base : Nat}
    (hfit : base + words.length ≤ 32768) : Inv (loaded words base s) :=
  { resetMeetsInvariant with
    mem_wf := Memory.wf_writeWords words hfit hs.mem_wf
    halted_after_halt := nofun }

theorem Inv.loadProgram {s : State} (hs : Inv s) (words : List Word) (base : Nat) :
    Inv (loadProgram words base s).1 := by
  unfold Machine.loadProgram
  split
  · next hfit => exact hs.loaded hfit
  · exact hs

/-- No part of the invariant speaks of the port registers (rule R166). -/
theorem Inv.deviceWrite {s : State} (hs : Inv s) (k : Fin 4) (v : Word) : Inv (deviceWrite k v s) :=
  { hs with }

/-- A command `execute` leads where its step leads (rule R90). -/
theorem step_of_occur_execute {s t : State} (h : occur (.command .execute) s = .next t) :
    step s = .next t := by
  cases hstep : step s with
  | next s' => simpa [occur, perform, hstep] using h
  | fault f => cases f
  | refused r => simp [occur, perform, hstep] at h

theorem Inv.occur {s t : State} (hs : Inv s) (e : Event) (h : occur e s = .next t) : Inv t := by
  match e with
  | .device k v =>
    cases h
    exact hs.deviceWrite k v
  | .command .reset =>
    cases h
    exact resetMeetsInvariant
  | .command (.loadProgram words base) =>
    cases h
    exact hs.loadProgram words base
  | .command .execute => exact stepKeepsInvariant s t hs (step_of_occur_execute h)

theorem occurAll_cons_eq_next {e : Event} {es : List Event} {s t : State}
    (h : occurAll (e :: es) s = .next t) : ∃ s', occur e s = .next s' ∧ occurAll es s' = .next t := by
  cases he : occur e s <;> simp only [occurAll, he, reduceCtorEq] at h
  exact ⟨_, rfl, h⟩

theorem Inv.occurAll {s t : State} (hs : Inv s) (events : List Event)
    (h : occurAll events s = .next t) : Inv t := by
  induction events generalizing s with
  | nil =>
    cases h
    exact hs
  | cons e es ih =>
    obtain ⟨s', he, hes⟩ := occurAll_cons_eq_next h
    exact ih (hs.occur e he) hes

/-- Settles O59, by induction on the list of events; power-on meets the invariant. -/
theorem reachableStatesMeetInvariant : Obligations.ReachableStatesMeetInvariant :=
  ⟨fun events _ _ hs h => hs.occurAll events h,
    fun _ ⟨events, h⟩ => Inv.occurAll resetMeetsInvariant events h⟩

/-! ### `pc` at the end of memory (rule R29) -/

/-- Settles O51: a fault keeps `pc`; a completed instruction jumps, or advances `pc` over its words, and
these end at 32767 at the latest. -/
theorem pcLeavesMemoryOnlySo : Obligations.PcLeavesMemoryOnlySo := by
  intro s t hrun hpc h hout
  rcases step_running_cases hrun h with ⟨f, rfl⟩ | ⟨i, u, hdec, hu, rfl⟩
  · rw [raise_pc] at hout
    omega
  · obtain ⟨rest, hwords⟩ := (fetchDecode_ok_iff s i).1 hdec
    refine ⟨i, rest, hwords, ?_⟩
    cases hj : jumpTarget i s with
    | some target => exact .inl (by rw [commit_of_jump i s u hj, commitJump_pc])
    | none =>
      have hend := pc_add_len_le_of_fetchDecode hdec
      have hadv := pc_commit_of_no_jump hdec hu hj
      exact .inr (by omega)

/-! ### The tick counter over a run (rules R37, R195) -/

/-- A step that ends Running began Running and ticked once (rules R91, R100, R101). -/
theorem tick_of_step_to_running {s t : State} (h : step s = .next t) (ht : t.es = .running) :
    t.time = s.time + 1#16 := by
  by_cases hrun : s.es = .running
  · rcases step_running_cases hrun h with ⟨f, rfl⟩ | ⟨i, u, -, hu, rfl⟩
    · cases ht
    · rw [commit_time, hu.time]
  · cases (step_of_not_running hrun).symm.trans h
    exact absurd ht hrun

theorem run_succ_eq_next {n : Nat} {s t : State} (h : Host.Core.run core (n + 1) s = .next t) :
    ∃ s', step s = .next s' ∧ Host.Core.run core n s' = .next t := by
  have hcore : core.step s = step s := rfl
  cases hs : step s with
  | next s' => exact ⟨s', rfl, by simpa only [Host.Core.run, hcore, hs] using h⟩
  | fault f => cases f
  | refused r => simp [Host.Core.run, hcore, hs] at h

/-- A machine that is not Running does not run (rules R91, R186). -/
theorem run_of_not_running {n : Nat} {s t : State} (hs : s.es ≠ .running)
    (h : Host.Core.run core n s = .next t) : t = s := by
  induction n with
  | zero =>
    cases h
    rfl
  | succ n ih =>
    obtain ⟨s', hstep, hrun⟩ := run_succ_eq_next h
    cases (step_of_not_running hs).symm.trans hstep
    exact ih hrun

/-- Settles O53, by induction on the number of steps: a run that ends Running was Running after its first
step, which therefore ticked. -/
theorem timeCountsTheStepsOfARun : Obligations.TimeCountsTheStepsOfARun := by
  intro n
  induction n with
  | zero =>
    intro s t h _
    cases h
    exact (Nat.mod_eq_of_lt s.time.isLt).symm
  | succ n ih =>
    intro s t h ht
    obtain ⟨s', hstep, hrun⟩ := run_succ_eq_next h
    have hs' : s'.es = .running := by
      by_contra hstopped
      rw [run_of_not_running hstopped hrun] at ht
      exact hstopped ht
    have htick := tick_of_step_to_running hstep hs'
    rw [ih s' t hrun ht, htick]
    simp only [BitVec.toNat_add, BitVec.toNat_ofNat]
    omega

/-! ### Registers and codes (rules R21, R22, R39, R181) -/

/-- Settles O9. -/
theorem registerWordSelectsOneToFifteen : Obligations.RegisterWordSelectsOneToFifteen :=
  ⟨regOperand_ok_iff, fun _ => regOperand_error⟩

/-- Settles O10. -/
theorem registersAreIndependent : Obligations.RegistersAreIndependent :=
  fun s r q v => ⟨getReg_setReg s r v q, rfl⟩

/-- Different faults have different codes: the code names the cause (rule R181). -/
theorem ExecFault.code_cause_injective (f g : ExecFault) (h : f.cause.code = g.cause.code) : f = g :=
  match f, g, h with
  | .outOfBounds, .outOfBounds, _ | .invalidOpcode, .invalidOpcode, _
  | .invalidRegister, .invalidRegister, _ | .invalidPort, .invalidPort, _
  | .stackFault, .stackFault, _ | .arithmeticFault, .arithmeticFault, _ => rfl

/-- Settles O57. -/
theorem engineAndFaultCodes : Obligations.EngineAndFaultCodes :=
  ⟨rfl, rfl, rfl, rfl, rfl, rfl, rfl, rfl, rfl, rfl, rfl, ExecFault.code_cause_injective⟩

end Sys2Proof.Machine
end

section
/-!
SUPPORT and CERTIFICATES of the family 20_memory.md: the two memory accesses, the canonical form of a
memory, and a stored word as the next fetch sees it.
-/

namespace Sys2Proof.Machine

/-! ### The accesses, on each side of the range check (rules R52, R53) -/

theorem memRead_of_lt {addr : Word} (h : addr.toNat < 32768) (s : State) :
    memRead addr s = .ok (s.mem.read addr.toNat) := by
  rcases memRead_cases addr s with ⟨-, e⟩ | ⟨hge, -⟩
  · exact e
  · omega

theorem memRead_of_ge {addr : Word} (h : 32768 ≤ addr.toNat) (s : State) :
    memRead addr s = .error .outOfBounds := by
  rcases memRead_cases addr s with ⟨hlt, -⟩ | ⟨-, e⟩
  · omega
  · exact e

theorem memWrite_of_lt {addr : Word} (h : addr.toNat < 32768) (v : Word) (s : State) :
    memWrite addr v s = .ok { s with mem := s.mem.write addr.toNat v } := by
  rcases memWrite_cases addr v s with ⟨-, e⟩ | ⟨hge, -⟩
  · exact e
  · omega

theorem memWrite_of_ge {addr : Word} (h : 32768 ≤ addr.toNat) (v : Word) (s : State) :
    memWrite addr v s = .error .outOfBounds := by
  rcases memWrite_cases addr v s with ⟨hlt, -⟩ | ⟨-, e⟩
  · omega
  · exact e

/-- Settles O7: inside memory a write is `Memory.write` at that address, whose read laws say the rest. -/
theorem memoryReadsBackWhatIsWritten : Obligations.MemoryReadsBackWhatIsWritten := by
  refine ⟨fun _ s h => memRead_of_ge h s, fun _ s h => memRead_of_lt h s,
    fun _ v s h => memWrite_of_ge h v s, fun addr v s h => ⟨_, memWrite_of_lt h v s, ?_, ?_, rfl⟩⟩
  · rw [memRead_of_lt h, Memory.read_write_self]
  · exact fun a ha => Memory.read_write_of_ne _ _ ha.symm

/-! ### The canonical form (rule R50) -/

/-- Below the first address it may list, a canonical memory holds the power-on word. -/
theorem Memory.read_of_lt_wfFrom {lo a : Nat} {m : Memory} (hm : Memory.wfFrom lo m = true)
    (ha : a < lo) : m.read a = 0#16 := by
  induction m generalizing lo with
  | nil => rfl
  | cons c m ih =>
    obtain ⟨hlo, -, -, htail⟩ := Memory.wfFrom_cons.1 hm
    rw [Memory.read_cons, if_neg (by omega)]
    exact ih htail (by omega)

theorem Memory.read_cons_self (c : Cell) (m : Memory) : Memory.read (c :: m) c.1 = c.2 :=
  if_pos rfl

theorem Memory.read_head_ne_zero {lo : Nat} {c : Cell} {m : Memory}
    (hm : Memory.wfFrom lo (c :: m) = true) : Memory.read (c :: m) c.1 ≠ 0#16 := by
  obtain ⟨-, -, hword, -⟩ := Memory.wfFrom_cons.1 hm
  rwa [Memory.read_cons_self]

/-- A canonical memory reads the power-on word below its first cell, so no memory that reads alike
begins there. -/
theorem Memory.head_le_head {lo lo' : Nat} {c d : Cell} {m m' : Memory}
    (hm : Memory.wfFrom lo (c :: m) = true) (hm' : Memory.wfFrom lo' (d :: m') = true)
    (h : ∀ a, Memory.read (c :: m) a = Memory.read (d :: m') a) : d.1 ≤ c.1 := by
  obtain ⟨-, hd, hword, htail⟩ := Memory.wfFrom_cons.1 hm'
  have hfirst : Memory.wfFrom d.1 (d :: m') = true :=
    Memory.wfFrom_cons.2 ⟨le_rfl, hd, hword, htail⟩
  by_contra hlt
  refine Memory.read_head_ne_zero hm ?_
  rw [h, Memory.read_of_lt_wfFrom hfirst (by omega)]

/-- Removing a shared first cell leaves memories that read alike. -/
theorem Memory.read_eq_of_read_cons_eq {c : Cell} {m m' : Memory}
    (hm : Memory.wfFrom (c.1 + 1) m = true) (hm' : Memory.wfFrom (c.1 + 1) m' = true)
    (h : ∀ a, Memory.read (c :: m) a = Memory.read (c :: m') a) (a : Nat) : m.read a = m'.read a := by
  by_cases ha : c.1 = a
  · rw [Memory.read_of_lt_wfFrom hm (by omega), Memory.read_of_lt_wfFrom hm' (by omega)]
  · simpa [Memory.read_cons, ha] using h a

theorem Memory.wfFrom_ext {lo lo' : Nat} {m m' : Memory} (hm : Memory.wfFrom lo m = true)
    (hm' : Memory.wfFrom lo' m' = true) (h : ∀ a, m.read a = m'.read a) : m = m' := by
  induction m generalizing lo lo' m' with
  | nil =>
    cases m' with
    | nil => rfl
    | cons d m' => exact absurd (h d.1).symm (Memory.read_head_ne_zero hm')
  | cons c m ih =>
    cases m' with
    | nil => exact absurd (h c.1) (Memory.read_head_ne_zero hm)
    | cons d m' =>
      have haddr : c.1 = d.1 := le_antisymm (Memory.head_le_head hm' hm fun a => (h a).symm)
        (Memory.head_le_head hm hm' h)
      have hword : c.2 = d.2 := by
        rw [← Memory.read_cons_self c m, h, haddr, Memory.read_cons_self]
      obtain rfl : c = d := Prod.ext haddr hword
      obtain ⟨-, -, -, htail⟩ := Memory.wfFrom_cons.1 hm
      obtain ⟨-, -, -, htail'⟩ := Memory.wfFrom_cons.1 hm'
      rw [ih htail htail' (Memory.read_eq_of_read_cons_eq htail htail' h)]

/-- Settles O8: by induction on both lists, whose first cells must agree, for each begins at the least
address that does not read as the power-on word. -/
theorem memoryIsDeterminedByItsReads : Obligations.MemoryIsDeterminedByItsReads :=
  fun _ _ hm hm' h => Memory.wfFrom_ext hm hm' h

/-! ### A stored word and the fetch (rule R61) -/

/-- The first word a fetch sees is the memory word at `pc` (rule R54). -/
theorem head?_fetchWords {s : State} (h : s.pc.toNat < 32768) :
    (fetchWords s).head? = some (s.mem.read s.pc.toNat) := by
  simp [fetchWords, Memory.wordsFrom_succ, h]

/-- STORE Rs,[addr] with both operands legal completes (rule R114). -/
theorem exec_storeR_of_legal {src addr : Word} {r : RegIdx} (hr : src.toNat = r.val + 1)
    (ha : addr.toNat < 32768) (s : State) :
    exec (.storeR src addr) s =
      .next (commitNext 3 { s with mem := s.mem.write addr.toNat (s.getReg r) }) := by
  have harm : exec (.storeR src addr) s = execStoreR src addr s := rfl
  rw [harm, execStoreR, (regOperand_ok_iff src r).2 hr, ok_bind, memWrite_of_lt ha, ok_bind,
    pure_eq_ok, outcome_ok]

/-- Settles O55: the store writes `x[s]` at the address, and the fetch there reads that same memory. -/
theorem storedWordIsFetched : Obligations.StoredWordIsFetched := by
  intro src addr r s t u hr ha h hmem hpc
  cases (exec_storeR_of_legal hr ha s).symm.trans h
  rw [head?_fetchWords (by rwa [hpc]), hmem, hpc, commitNext_mem, Memory.read_write_self]
  rfl

end Sys2Proof.Machine
end

section
/-!
SUPPORT and CERTIFICATES of the family 30_encoding.md: the decoder against the encoder and the opcode
map, the words a step decodes, and what legal operand words say about the fault of an instruction.
-/

namespace Sys2Proof.Machine

/-! ### Decoding and encoding (rules R70, R76, R82) -/

/-- The encoding of an instruction decodes to it, whatever words follow. -/
theorem decode_encode_append (i : Instr) (rest : List Word) :
    decode (encode i ++ rest) = .ok (i, rest) := by cases i <;> rfl

/-- Settles O15. -/
theorem encodeAndDecodeAgree : Obligations.EncodeAndDecodeAgree :=
  ⟨decode_encode_append, fun _ _ _ => eq_encode_of_decode⟩

/-- Settles O14: the words are the encodings of the four instructions. -/
theorem exampleProgramDecodes : Obligations.ExampleProgramDecodes :=
  ⟨decode_encode_append (.loadRI 1#16 5#16), decode_encode_append (.loadRI 2#16 3#16),
    decode_encode_append (.add 1#16 2#16), decode_encode_append .halt⟩

/-! ### The opcode word decides the length (rules R77, R78) -/

/-- The answer `r` of the decoder over the words `ws` behind an opcode word, as the length `n` of its
instructions decides it: too few words left, or an instruction of `n` words. -/
structure AnswersLength (n : Nat) (ws : List Word) (r : Except DecodeError (Instr × List Word)) :
    Prop where
  short : ws.length + 1 < n → r = .error .operandsPastEnd
  enough : n ≤ ws.length + 1 →
    ∃ i rest, r = .ok (i, rest) ∧ i.len = n ∧ rest.length + n = ws.length + 1

theorem answersLength_decode0 {i : Instr} (hlen : i.len = 1) (ws : List Word) :
    AnswersLength 1 ws (decode0 i ws) where
  short h := by omega
  enough _ := ⟨i, ws, rfl, hlen, rfl⟩

theorem answersLength_decode1 {f : Word → Instr} (hlen : ∀ w, (f w).len = 2) (ws : List Word) :
    AnswersLength 2 ws (decode1 f ws) :=
  match ws with
  | [] => ⟨fun _ => rfl, by simp⟩
  | w :: ws => ⟨by simp, fun _ => ⟨f w, ws, rfl, hlen w, rfl⟩⟩

theorem answersLength_decode2 {f : Word → Word → Instr} (hlen : ∀ v w, (f v w).len = 3)
    (ws : List Word) : AnswersLength 3 ws (decode2 f ws) :=
  match ws with
  | [] | [_] => ⟨fun _ => rfl, by simp⟩
  | v :: w :: ws => ⟨by simp, fun _ => ⟨f v w, ws, rfl, hlen v w, rfl⟩⟩

/-- What an opcode word makes of the words behind it: one case per row of the opcode map, by its format,
and the words above the map. -/
theorem decode_cons_cases (op : Word) (ws : List Word) :
    (op.toNat ≤ 0x001A ∧ AnswersLength (lenOfOpcode op.toNat) ws (decode (op :: ws))) ∨
      (0x001A < op.toNat ∧ decode (op :: ws) = .error .invalidOpcode) := by
  simp only [decode]
  split
  case h_1 | h_23 => exact .inl ⟨by decide, answersLength_decode0 rfl ws⟩
  case h_4 | h_5 | h_7 | h_9 | h_10 | h_17 | h_18 | h_19 | h_20 | h_21 | h_22 | h_24 | h_25 =>
    exact .inl ⟨by decide, answersLength_decode1 (fun _ => rfl) ws⟩
  case h_2 | h_3 | h_6 | h_8 | h_11 | h_12 | h_13 | h_14 | h_15 | h_16 | h_26 | h_27 =>
    exact .inl ⟨by decide, answersLength_decode2 (fun _ _ => rfl) ws⟩
  case h_28 =>
    have hop : 0x001A < op.toNat := by
      simp only [imp_false, BitVec.toNat_eq, BitVec.toNat_ofNat] at *
      omega
    exact .inr ⟨hop, rfl⟩

theorem answersLength_decode {op : Word} (hop : op.toNat ≤ 0x001A) (ws : List Word) :
    AnswersLength (lenOfOpcode op.toNat) ws (decode (op :: ws)) := by
  rcases decode_cons_cases op ws with ⟨-, h⟩ | ⟨hillegal, -⟩
  · exact h
  · omega

theorem decode_of_illegal_opcode {op : Word} (hop : 0x001A < op.toNat) (ws : List Word) :
    decode (op :: ws) = .error .invalidOpcode := by
  rcases decode_cons_cases op ws with ⟨hlegal, -⟩ | ⟨-, h⟩
  · omega
  · exact h

/-- Settles O16. -/
theorem opcodeDecidesLength : Obligations.OpcodeDecidesLength :=
  ⟨fun _ ws hop => decode_of_illegal_opcode hop ws, fun _ ws hop => (answersLength_decode hop ws).short,
    fun _ ws hop => (answersLength_decode hop ws).enough⟩

/-! ### The words a step decodes (rules R77, R90; log 9) -/

theorem step_of_fetchDecode {s : State} {i : Instr} (hrun : s.es = .running)
    (h : fetchDecode s = .ok i) : step s = exec i s := by simp [step, hrun, h]

theorem step_of_decode_fetchWords {s : State} {i : Instr} {rest : List Word} (hrun : s.es = .running)
    (h : decode (fetchWords s) = .ok (i, rest)) : step s = exec i s :=
  step_of_fetchDecode hrun ((fetchDecode_ok_iff s i).2 ⟨rest, h⟩)

/-- Where memory holds the words `ws` from `a` on, the words seen from `a` begin with `ws`. -/
theorem Memory.wordsFrom_eq_append (m : Memory) (ws : List Word) {n a : Nat} (hn : ws.length ≤ n)
    (ha : a + ws.length ≤ 32768) (h : ∀ (k : Nat) (hk : k < ws.length), m.read (a + k) = ws[k]) :
    m.wordsFrom n a = ws ++ m.wordsFrom (n - ws.length) (a + ws.length) := by
  induction ws generalizing n a with
  | nil => rfl
  | cons w ws ih =>
    simp only [List.length_cons] at hn ha
    obtain ⟨n, rfl⟩ : ∃ n', n = n' + 1 := ⟨n - 1, by omega⟩
    have hhead : m.read a = w := h 0 (by simp)
    have htail : ∀ (k : Nat) (hk : k < ws.length), m.read (a + 1 + k) = ws[k] := fun k hk => by
      have := h (k + 1) (by simpa using hk)
      rwa [List.getElem_cons_succ, ← Nat.add_assoc, Nat.add_right_comm] at this
    rw [wordsFrom_succ, if_pos (by omega), hhead, ih (by omega) (by omega) htail]
    simp [Nat.add_assoc, Nat.add_comm 1]

theorem len_le_three (i : Instr) : i.len ≤ 3 := by cases i <;> simp [Instr.len]

/-- Settles O39: words in memory from `pc` on are words the fetch sees. -/
theorem stepRunsTheDecodedInstruction : Obligations.StepRunsTheDecodedInstruction := by
  refine ⟨fun i rest s hrun h => step_of_decode_fetchWords hrun h, fun i s hrun hfit hmem => ?_⟩
  have hlen : (encode i).length ≤ 3 := by rw [length_encode]; exact len_le_three i
  obtain ⟨rest, hwords⟩ : ∃ rest, fetchWords s = encode i ++ rest :=
    ⟨_, s.mem.wordsFrom_eq_append (encode i) hlen (by rwa [length_encode]) hmem⟩
  exact step_of_decode_fetchWords hrun (hwords ▸ decode_encode_append i rest)

/-- The three words the fetch can see fit in memory from the place address. -/
theorem placeAddr_add_three_le (s : State) : placeAddr s + 3 ≤ 32768 := by
  unfold placeAddr Config.memWords
  split <;> omega

theorem toNat_pc_placeWords (s : State) (ws : List Word) :
    (placeWords s ws).pc.toNat = placeAddr s := by
  have := placeAddr_add_three_le s
  exact Nat.mod_eq_of_lt (by omega)

/-- Three words placed are what the next fetch sees. -/
theorem fetchWords_placeWords (s : State) {ws : List Word} (hlen : ws.length = 3) :
    fetchWords (placeWords s ws) = ws := by
  have hseen := Memory.wordsFrom_eq_append (s.mem.writeWords (placeAddr s) ws) ws (Nat.le_of_eq hlen)
    (by rw [hlen]; exact placeAddr_add_three_le s) (Memory.read_writeWords_inside ws s.mem _)
  rw [fetchWords, toNat_pc_placeWords]
  rwa [hlen, Nat.sub_self, Memory.wordsFrom_zero, List.append_nil] at hseen

theorem decodeTableWord_eq_some {nbits w : Nat} {i : Instr} (h : decodeTableWord nbits w = some i) :
    ∃ rest, decode (tableWords nbits w) = .ok (i, rest) := by
  unfold decodeTableWord at h
  split at h
  · next j rest hdec =>
    cases h
    exact ⟨rest, hdec⟩
  · cases h

/-- Settles O40: the placed words are the ones the next step decodes. -/
theorem placedInstructionRunsNext : Obligations.PlacedInstructionRunsNext := by
  intro s nbits w i h
  obtain ⟨rest, hdec⟩ := decodeTableWord_eq_some h
  refine step_of_decode_fetchWords (s := s.withFetchWord nbits w) (rest := rest) rfl ?_
  rw [State.withFetchWord, fetchWords_placeWords s rfl, hdec]

/-! ### The first failing check and the outcome of an instruction (rules R96, R183) -/

/-- The operation `e` makes the check `c`: it answers a fault exactly when the check fails, and that one. -/
def Checks {α : Type} (c : Option ExecFault) (e : Except ExecFault α) : Prop :=
  ∀ f, e = .error f ↔ c = some f

theorem checks_of_ok {α : Type} {c : Option ExecFault} {e : Except ExecFault α} {a : α}
    (hc : c = none) (he : e = .ok a) : Checks c e := by simp [Checks, hc, he]

theorem checks_of_error {α : Type} {c : Option ExecFault} {e : Except ExecFault α} {f : ExecFault}
    (hc : c = some f) (he : e = .error f) : Checks c e := by simp [Checks, hc, he]

theorem regFault_of_legal {w : Word} (h : 1 ≤ w.toNat ∧ w.toNat ≤ 15) : regFault w = none := if_pos h

theorem regFault_of_illegal {w : Word} (h : ¬ (1 ≤ w.toNat ∧ w.toNat ≤ 15)) :
    regFault w = some .invalidRegister := if_neg h

theorem checks_regOperand (w : Word) : Checks (regFault w) (regOperand w) := by
  rcases regOperand_cases w with ⟨r, hw, e⟩ | ⟨hw, e⟩
  · exact checks_of_ok (regFault_of_legal (by omega)) e
  · exact checks_of_error (regFault_of_illegal hw) e

theorem checks_regPair (a b : Word) : Checks (regFault a <|> regFault b) (regPair a b) := by
  rcases regPair_cases a b with ⟨ra, rb, ha, hb, e⟩ | ⟨hillegal, e⟩
  · refine checks_of_ok ?_ e
    rw [regFault_of_legal (by omega), regFault_of_legal (by omega)]
    rfl
  · refine checks_of_error ?_ e
    by_cases ha : 1 ≤ a.toNat ∧ a.toNat ≤ 15
    · rw [regFault_of_legal ha, regFault_of_illegal fun hb => hillegal ⟨ha, hb⟩]
      rfl
    · rw [regFault_of_illegal ha]
      rfl

theorem checks_memRead (addr : Word) (s : State) : Checks (addrFault addr) (memRead addr s) := by
  rcases memRead_cases addr s with ⟨ha, e⟩ | ⟨ha, e⟩
  · exact checks_of_ok (if_pos ha) e
  · exact checks_of_error (if_neg (by omega)) e

theorem checks_memWrite (addr v : Word) (s : State) : Checks (addrFault addr) (memWrite addr v s) := by
  rcases memWrite_cases addr v s with ⟨ha, e⟩ | ⟨ha, e⟩
  · exact checks_of_ok (if_pos ha) e
  · exact checks_of_error (if_neg (by omega)) e

theorem checks_inPortOperand (w : Word) : Checks (portFault 5 w) (inPortOperand w) := by
  rcases inPortOperand_cases w with ⟨k, hw, e⟩ | ⟨hw, e⟩ | ⟨hw, e⟩ | ⟨hw, e⟩
  · exact checks_of_ok (if_pos (by omega)) e
  · exact checks_of_ok (if_pos (by omega)) e
  · exact checks_of_ok (if_pos (by omega)) e
  · exact checks_of_error (if_neg (by omega)) e

theorem checks_outPortOperand (w : Word) : Checks (portFault 4 w) (outPortOperand w) := by
  rcases outPortOperand_cases w with ⟨k, hw, e⟩ | ⟨hw, e⟩ | ⟨hw, e⟩
  · exact checks_of_ok (if_pos (by omega)) e
  · exact checks_of_ok (if_pos (by omega)) e
  · exact checks_of_error (if_neg (by omega)) e

theorem checks_push (v : Word) {s : State} (hlo : 32512 ≤ s.sp.toNat) (hhi : s.sp.toNat ≤ 32767) :
    Checks (fullFault s) (push v s) := by
  rcases push_cases v s with ⟨hsp, -, e⟩ | ⟨hsp, e⟩ | ⟨hsp, e⟩
  · exact checks_of_ok (if_neg (by omega)) e
  · exact checks_of_error (if_pos (by omega)) e
  · omega

theorem checks_pop {s : State} (hhi : s.sp.toNat ≤ 32767) : Checks (emptyFault s) (pop s) := by
  rcases pop_cases s with ⟨hsp, e⟩ | ⟨hsp, e⟩
  · exact checks_of_ok (if_neg (by omega)) e
  · exact checks_of_error (if_pos (by omega)) e

theorem regValue_eq_getReg {w : Word} {r : RegIdx} (h : w.toNat = r.val + 1) (s : State) :
    regValue w s = s.getReg r := by
  simp [regValue, State.getReg, h]

theorem checks_aluDiv {b : Word} {rb : RegIdx} (h : b.toNat = rb.val + 1) (x : Word) (s : State) :
    Checks (divisorFault b s) (aluDiv x (s.getReg rb)) := by
  rw [divisorFault, regValue_eq_getReg h]
  rcases aluDiv_cases x (s.getReg rb) with ⟨hd, e⟩ | ⟨hd, e⟩
  · exact checks_of_error (if_pos hd) e
  · exact checks_of_ok (if_neg hd) e

theorem checks_aluMod {b : Word} {rb : RegIdx} (h : b.toNat = rb.val + 1) (x : Word) (s : State) :
    Checks (divisorFault b s) (aluMod x (s.getReg rb)) := by
  rw [divisorFault, regValue_eq_getReg h]
  rcases aluMod_cases x (s.getReg rb) with ⟨hd, e⟩ | ⟨hd, e⟩
  · exact checks_of_error (if_pos hd) e
  · exact checks_of_ok (if_neg hd) e

/-- The outcome `o` of an instruction from `s` with the first failing check `c`: that fault taken, or, with
no check failing, a state in which the tick counter has moved, as no fault moves it (rules R100, R101). -/
def Decides (c : Option ExecFault) (s : State) (o : Host.Outcome State Fault Refusal) : Prop :=
  match c with
  | some f => o = .next (raise f s)
  | none => ∃ t, o = .next t ∧ t.time = s.time + 1#16

section
variable {s : State} {c d : Option ExecFault}

theorem Decides.done {t : State} (h : t.time = s.time + 1#16) : Decides none s (outcome s (.ok t)) :=
  ⟨t, rfl, h⟩

/-- A handler that begins with an operation: its check comes first, and the rest of the handler decides if
that check passes. -/
theorem Decides.bind {α : Type} {e : Except ExecFault α} {k : α → Except ExecFault State}
    (he : Checks c e) (hk : ∀ a, e = .ok a → Decides d s (outcome s (k a))) :
    Decides (c <|> d) s (outcome s (e >>= k)) := by
  cases e with
  | error f =>
    obtain rfl := (he f).1 rfl
    rfl
  | ok a =>
    cases c with
    | none => exact hk a rfl
    | some f => cases (he f).2 rfl

/-- A handler whose last operation that can fault is its first. -/
theorem Decides.last {α : Type} {e : Except ExecFault α} {k : α → Except ExecFault State}
    (he : Checks c e) (hk : ∀ a, e = .ok a → Decides none s (outcome s (k a))) :
    Decides c s (outcome s (e >>= k)) := by
  simpa using Decides.bind he hk

theorem Decides.jumpIf (cond : Bool) (target : Word) : Decides none s (jumpIf cond target s) := by
  cases cond <;> exact .done rfl

theorem Decides.arithmetic {alu : Word → Word → Except ExecFault Word} {a b : Word}
    (halu : ∀ (x : Word) (rb : RegIdx), b.toNat = rb.val + 1 → Checks d (alu x (s.getReg rb))) :
    Decides (regFault a <|> regFault b <|> d) s (Machine.arithmetic alu a b s) := by
  have h : Decides ((regFault a <|> regFault b) <|> d) s (Machine.arithmetic alu a b s) := by
    refine .bind (checks_regPair a b) fun ⟨ra, rb⟩ hregs => .last (halu _ rb ?_) fun r _ => .done rfl
    rcases regPair_cases a b with ⟨ra', rb', -, hb, e⟩ | ⟨-, e⟩ <;> cases e.symm.trans hregs
    exact hb
  simpa [Option.or_assoc] using h

/-- ADD, SUB and MUL check their register words and nothing else. -/
theorem Decides.arithmetic_of_no_check {alu : Word → Word → Except ExecFault Word}
    (halu : ∀ x y, ∃ r, alu x y = .ok r) (a b : Word) :
    Decides (regFault a <|> regFault b) s (Machine.arithmetic alu a b s) := by
  simpa using Decides.arithmetic (d := none) (alu := alu) (a := a) (b := b) fun x rb _ =>
    let ⟨_, hr⟩ := halu x (s.getReg rb)
    checks_of_ok rfl hr

end

/-- The table of rule R183 in the order of rule R96 is what every handler does, with `sp` in the stack region. -/
theorem exec_decides (i : Instr) {s : State} (hlo : 32512 ≤ s.sp.toNat) (hhi : s.sp.toNat ≤ 32767) :
    Decides (firstFault i s) s (exec i s) := by
  cases i with
  | halt | loadAI imm | jmp target => exact .done rfl
  | loadRI d imm => exact .last (checks_regOperand d) fun r _ => .done rfl
  | loadRM d addr =>
    exact .bind (checks_regOperand d) fun r _ => .last (checks_memRead addr s) fun v _ => .done rfl
  | loadAM addr => exact .last (checks_memRead addr s) fun v _ => .done rfl
  | storeR src addr =>
    refine .bind (checks_regOperand src) fun r _ => .last (checks_memWrite addr _ s) fun t ht => ?_
    obtain ⟨-, rfl⟩ := memWrite_eq_ok ht
    exact .done rfl
  | storeA addr =>
    refine .last (checks_memWrite addr _ s) fun t ht => ?_
    obtain ⟨-, rfl⟩ := memWrite_eq_ok ht
    exact .done rfl
  | movRR d src => exact .last (checks_regPair d src) fun ⟨rd, rs⟩ _ => .done rfl
  | movRA r | movAR r => exact .last (checks_regOperand r) fun r _ => .done rfl
  | add a b | sub a b | mul a b =>
    exact .arithmetic_of_no_check (fun x y => ⟨_, rfl⟩) a b
  | div a b => exact .arithmetic fun x rb hb => checks_aluDiv hb x s
  | mod a b => exact .arithmetic fun x rb hb => checks_aluMod hb x s
  | cmp a b => exact .last (checks_regPair a b) fun ⟨ra, rb⟩ _ => .done rfl
  | jz target | jg target | jl target | je target => exact .jumpIf _ target
  | call target =>
    refine .last (checks_push _ hlo hhi) fun t ht => ?_
    obtain ⟨-, -, rfl⟩ := push_eq_ok ht
    exact .done rfl
  | ret =>
    refine .last (checks_pop hhi) fun ⟨v, t⟩ ht => ?_
    obtain ⟨-, -, rfl⟩ := pop_eq_ok ht
    exact .done rfl
  | push src =>
    refine .bind (checks_regOperand src) fun r _ => .last (checks_push _ hlo hhi) fun t ht => ?_
    obtain ⟨-, -, rfl⟩ := push_eq_ok ht
    exact .done rfl
  | pop d =>
    refine .bind (checks_regOperand d) fun r _ => .last (checks_pop hhi) fun ⟨v, t⟩ ht => ?_
    obtain ⟨-, -, rfl⟩ := pop_eq_ok ht
    exact .done rfl
  | inp d port =>
    exact .bind (checks_regOperand d) fun r _ => .last (checks_inPortOperand port) fun p _ => .done rfl
  | out src port =>
    exact .bind (checks_regOperand src) fun r _ => .last (checks_outPortOperand port) fun p _ =>
      .done (by simp)

theorem exec_of_firstFault {i : Instr} {s : State} {f : ExecFault} (hlo : 32512 ≤ s.sp.toNat)
    (hhi : s.sp.toNat ≤ 32767) (hf : firstFault i s = some f) : exec i s = .next (raise f s) := by
  have h := exec_decides i hlo hhi
  rwa [hf] at h

/-- With no check failing the instruction commits what its handler wrote: a fault would leave the tick
counter where it was. -/
theorem exec_of_no_firstFault {i : Instr} {s : State} (hlo : 32512 ≤ s.sp.toNat)
    (hhi : s.sp.toNat ≤ 32767) (hf : firstFault i s = none) :
    ∃ u, HandlerWrites i s u ∧ exec i s = .next (commit i s u) := by
  have h := exec_decides i hlo hhi
  rw [hf] at h
  obtain ⟨t, ht, htick⟩ := h
  rcases exec_answers i s with ⟨f, e⟩ | hcommit
  · cases ht.symm.trans e
    simp at htick
  · exact hcommit

/-! ### Legal operand words (rules R72, R74, R75) -/

/-- The fault of an operand word with a value that is not legal for its type. -/
def IsOperandFault (f : ExecFault) : Prop := f = .invalidRegister ∨ f = .invalidPort ∨ f = .outOfBounds

/-- The check `c` of one operand word passes exactly when the word is legal. -/
structure ChecksOperand (legal : Bool) (c : Option ExecFault) : Prop where
  of_legal : legal = true → c = none
  of_illegal : legal = false → ∃ f, c = some f ∧ IsOperandFault f

theorem checksOperand_ite {legal : Bool} {P : Prop} [Decidable P] {f : ExecFault}
    (hP : legal = true ↔ P) (hf : IsOperandFault f) :
    ChecksOperand legal (if P then none else some f) where
  of_legal h := if_pos (hP.1 h)
  of_illegal h := ⟨f, if_neg (by simp [← hP, h]), hf⟩

theorem checksOperand_reg (w : Word) : ChecksOperand (legalReg w) (regFault w) :=
  checksOperand_ite (legalReg_iff w) (.inl rfl)

theorem checksOperand_addr (w : Word) : ChecksOperand (legalAddr w) (addrFault w) :=
  checksOperand_ite (legalAddr_iff w) (.inr (.inr rfl))

theorem checksOperand_inPort (w : Word) : ChecksOperand (legalInPort w) (portFault 5 w) :=
  checksOperand_ite (legalInPort_iff w) (.inr (.inl rfl))

theorem checksOperand_outPort (w : Word) : ChecksOperand (legalOutPort w) (portFault 4 w) :=
  checksOperand_ite (legalOutPort_iff w) (.inr (.inl rfl))

/-- The first failing check `c` tells whether the operand words are legal: an illegal one is its cause, and
with legal operands only the stack or a divisor can be. -/
structure TellsLegality (legal : Bool) (c : Option ExecFault) : Prop where
  of_illegal : legal = false → ∃ f, c = some f ∧ IsOperandFault f
  of_legal : legal = true → ∀ f, c = some f → f = .stackFault ∨ f = .arithmeticFault

theorem tellsLegality_none : TellsLegality true none := ⟨by simp, by simp⟩

theorem tellsLegality_ite {P : Prop} [Decidable P] {f : ExecFault}
    (hf : f = .stackFault ∨ f = .arithmeticFault) :
    TellsLegality true (if P then some f else none) where
  of_illegal h := by cases h
  of_legal _ g hg := by
    obtain ⟨-, rfl⟩ : P ∧ f = g := by simpa using hg
    exact hf

theorem tellsLegality_full (s : State) : TellsLegality true (fullFault s) := tellsLegality_ite (.inl rfl)

theorem tellsLegality_empty (s : State) : TellsLegality true (emptyFault s) :=
  tellsLegality_ite (.inl rfl)

theorem tellsLegality_divisor (w : Word) (s : State) : TellsLegality true (divisorFault w s) :=
  tellsLegality_ite (.inr rfl)

section
variable {p q : Bool} {c d : Option ExecFault}

/-- An operand word checked before everything else. -/
theorem ChecksOperand.and (hc : ChecksOperand p c) (hd : TellsLegality q d) :
    TellsLegality (p && q) (c <|> d) := by
  cases p with
  | true =>
    rw [hc.of_legal rfl]
    exact hd
  | false =>
    obtain ⟨f, rfl, hf⟩ := hc.of_illegal rfl
    exact ⟨fun _ => ⟨f, rfl, hf⟩, by simp⟩

/-- The last operand word, with only checks of the stack or a divisor after it. -/
theorem ChecksOperand.and_then (hc : ChecksOperand p c) (hd : TellsLegality true d) :
    TellsLegality p (c <|> d) := by
  simpa using hc.and hd

theorem ChecksOperand.tells (hc : ChecksOperand p c) : TellsLegality p c := by
  simpa using hc.and_then tellsLegality_none
end

theorem tellsLegality_firstFault (i : Instr) (s : State) :
    TellsLegality i.wellFormed (firstFault i s) := by
  have reg := checksOperand_reg
  have addr := checksOperand_addr
  cases i with
  | halt | loadAI imm | jmp target | jz target | jg target | jl target | je target =>
    exact tellsLegality_none
  | loadRI r imm | movRA r | movAR r => exact (reg r).tells
  | loadRM r a | storeR r a => exact (reg r).and (addr a).tells
  | loadAM a | storeA a => exact (addr a).tells
  | movRR a b | add a b | sub a b | mul a b | cmp a b => exact (reg a).and (reg b).tells
  | div a b | mod a b => exact (reg a).and ((reg b).and_then (tellsLegality_divisor b s))
  | call target => exact tellsLegality_full s
  | ret => exact tellsLegality_empty s
  | push src => exact (reg src).and_then (tellsLegality_full s)
  | pop d => exact (reg d).and_then (tellsLegality_empty s)
  | inp d port => exact (reg d).and (checksOperand_inPort port).tells
  | out src port => exact (reg src).and (checksOperand_outPort port).tells

/-- Settles O46: the first failing check is the fault, and it is an operand's exactly when the instruction
is ill-formed. -/
theorem wellFormedMeansLegalOperands : Obligations.WellFormedMeansLegalOperands := by
  intro i s t hrun hlo hhi h
  have htells := tellsLegality_firstFault i s
  cases hf : firstFault i s with
  | some f =>
    cases (exec_of_firstFault hlo hhi hf).symm.trans h
    refine ⟨fun hill => ⟨rfl, ?_⟩, fun hwf _ => ?_⟩
    · obtain ⟨f', hf', hoperand⟩ := htells.of_illegal hill
      cases hf.symm.trans hf'
      rcases hoperand with rfl | rfl | rfl <;> simp [ExecFault.cause]
    · rcases htells.of_legal hwf f hf with rfl | rfl <;> simp [ExecFault.cause]
  | none =>
    obtain ⟨u, hu, hcommit⟩ := exec_of_no_firstFault hlo hhi hf
    cases hcommit.symm.trans h
    have hcompleted : (commit i s u).es ≠ .faulted := by
      rw [commit_es]
      exact hu.not_faulted (by simp [hrun])
    refine ⟨fun hill => ?_, fun _ hfaulted => absurd hfaulted hcompleted⟩
    obtain ⟨f, hf', -⟩ := htells.of_illegal hill
    cases hf.symm.trans hf'

end Sys2Proof.Machine
end

section
/-!
SUPPORT and CERTIFICATES of the family 40_dispatch.md: idle steps, the faults of fetch and decode, the first
failing check, fault and commit of a step, and what an instruction leaves unchanged or does not look at.
-/

namespace Sys2Proof.Machine

/-! ### A machine that is not Running (rules R91, R186) -/

/-- Settles O41. -/
theorem stepIsIdleUnlessRunning : Obligations.StepIsIdleUnlessRunning := fun _ => step_of_not_running

/-- Settles O42, by induction on the number of steps, each of which is idle. -/
theorem endOfRunIsStable : Obligations.EndOfRunIsStable := by
  intro n s hs
  have hidle : core.step s = .next s := step_of_not_running hs
  induction n with
  | zero => rfl
  | succ n ih => simpa only [Host.Core.run, hidle] using ih

/-! ### The faults of fetch and decode (rules R92, R93, R95) -/

theorem step_of_decode_error {s : State} {e : DecodeError} (hrun : s.es = .running)
    (h : decode (fetchWords s) = .error e) : step s = .next (raise (decodeFault e) s) := by
  simp [step, hrun, fetchDecode, h]

theorem fetchWords_of_ge {s : State} (h : 32768 ≤ s.pc.toNat) : fetchWords s = [] := by
  rw [fetchWords, Memory.wordsFrom_succ, if_neg (by omega)]

theorem fetchWords_of_lt {s : State} (h : s.pc.toNat < 32768) :
    fetchWords s = s.mem.read s.pc.toNat :: s.mem.wordsFrom 2 (s.pc.toNat + 1) := by
  rw [fetchWords, Memory.wordsFrom_succ, if_pos h]

/-- Settles O43: the fetch sees no word, or an opcode word and behind it no more words than memory has. -/
theorem fetchAndDecodeFaults : Obligations.FetchAndDecodeFaults := by
  intro s hrun
  refine ⟨fun hpc => ?_, fun hpc hop => ?_, fun hpc hop hlen => ?_⟩
  · have hdec : decode (fetchWords s) = .error .noOpcodeWord := by rw [fetchWords_of_ge hpc]; rfl
    exact step_of_decode_error hrun hdec
  · have hdec : decode (fetchWords s) = .error .invalidOpcode := by
      rw [fetchWords_of_lt hpc]
      exact decode_of_illegal_opcode hop _
    exact step_of_decode_error hrun hdec
  · have hseen := s.mem.length_wordsFrom_le 2 (s.pc.toNat + 1)
    have hdec : decode (fetchWords s) = .error .operandsPastEnd := by
      rw [fetchWords_of_lt hpc]
      exact (answersLength_decode hop _).short (by omega)
    exact step_of_decode_error hrun hdec

/-! ### Every transition answers a next state (rules R90, R104) -/

theorem exec_eq_next (i : Instr) (s : State) : ∃ t, exec i s = .next t := by
  rcases exec_answers i s with ⟨f, e⟩ | ⟨u, -, e⟩
  · exact ⟨_, e⟩
  · exact ⟨_, e⟩

theorem step_eq_next (s : State) : ∃ t, step s = .next t := by
  rcases step_cases s with ⟨-, e⟩ | ⟨-, f, -, e⟩ | ⟨-, i, -, e⟩
  · exact ⟨_, e⟩
  · exact ⟨_, e⟩
  · rw [e]
    exact exec_eq_next i s

theorem occur_eq_next (e : Event) (s : State) : ∃ t, occur e s = .next t :=
  match e with
  | .device _ _ | .command .reset | .command (.loadProgram _ _) => ⟨_, rfl⟩
  | .command .execute =>
    let ⟨t, ht⟩ := step_eq_next s
    ⟨t, by simp [occur, perform, ht]⟩

theorem occurAll_eq_next (events : List Event) (s : State) : ∃ t, occurAll events s = .next t := by
  induction events generalizing s with
  | nil => exact ⟨s, rfl⟩
  | cons e es ih =>
    obtain ⟨s', he⟩ := occur_eq_next e s
    simpa only [occurAll, he] using ih s'

/-- Settles O44. -/
theorem everyStepAnswersNext : Obligations.EveryStepAnswersNext :=
  ⟨exec_eq_next, step_eq_next, occurAll_eq_next⟩

/-! ### The checks of a step in their order (rules R96, R183) -/

theorem HandlerWrites.commit_not_faulted {i : Instr} {s u : State} (hu : HandlerWrites i s u)
    (hrun : s.es = .running) : (commit i s u).es ≠ .faulted := by
  rw [commit_es]
  exact hu.not_faulted (by simp [hrun])

/-- Settles O45: a step runs the decoded instruction, whose outcome its first failing check decides. -/
theorem firstFailingCheckDecides : Obligations.FirstFailingCheckDecides := by
  refine fun s hrun hlo hhi =>
    ⟨fun e he => step_of_decode_error hrun he, fun i rest hdec => ⟨fun f hf => ?_, fun hf => ?_⟩⟩
  · rw [step_of_decode_fetchWords hrun hdec, exec_of_firstFault hlo hhi hf]
    rfl
  · obtain ⟨u, hu, hexec⟩ := exec_of_no_firstFault hlo hhi hf
    refine ⟨_, (step_of_decode_fetchWords hrun hdec).trans hexec, hu.commit_not_faulted hrun, ?_⟩
    rw [commit_fc, hu.fc]

/-! ### Fault and commit of a step (rules R99 to R101, R182) -/

section
variable {s t : State}

theorem eq_raise_of_step_faulted (hrun : s.es = .running) (h : step s = .next t)
    (ht : t.es = .faulted) : ∃ f, t = raise f s := by
  rcases step_running_cases hrun h with hfault | ⟨i, u, -, hu, rfl⟩
  · exact hfault
  · exact absurd ht (hu.commit_not_faulted hrun)

theorem eq_commit_of_step_completed (hrun : s.es = .running) (h : step s = .next t)
    (ht : t.es ≠ .faulted) : ∃ i u, fetchDecode s = .ok i ∧ HandlerWrites i s u ∧ t = commit i s u := by
  rcases step_running_cases hrun h with ⟨f, rfl⟩ | hcommit
  · exact absurd rfl ht
  · exact hcommit
end

/-- Settles O47. -/
theorem faultChangesOnlyEsAndFc : Obligations.FaultChangesOnlyEsAndFc := by
  intro s t hrun h ht
  obtain ⟨f, rfl⟩ := eq_raise_of_step_faulted hrun h ht
  exact ⟨rfl, f, rfl⟩

/-- Making a machine that faulted Running again gives back the machine before the fault (rule R101). -/
theorem restore_raise {s : State} (hrun : s.es = .running) (hfc : s.fc = .noFault) (f : ExecFault) :
    { raise f s with es := .running, fc := .noFault } = s := by
  rw [← hrun, ← hfc]
  rfl

/-- Settles O48: the fault keeps `pc` and memory, and the restored state is the state before the step. -/
theorem faultIsReproducible : Obligations.FaultIsReproducible := by
  intro s t hrun hfc h ht
  obtain ⟨f, rfl⟩ := eq_raise_of_step_faulted hrun h ht
  refine ⟨rfl, ?_⟩
  rw [restore_raise hrun hfc]
  exact h

/-- Settles O50: the commit takes the jump the handler produced, else the advance, which ends inside 32768
because the whole instruction was fetched. -/
theorem pcAtCommit : Obligations.PcAtCommit := by
  intro i rest s t hrun hwords h ht
  obtain ⟨j, u, hdec, hu, rfl⟩ := eq_commit_of_step_completed hrun h ht
  cases ((fetchDecode_ok_iff s i).2 ⟨rest, hwords⟩).symm.trans hdec
  refine ⟨fun target hj => ?_, fun hj => ?_⟩
  · rw [commit_of_jump i s u hj, commitJump_pc]
  · rw [pc_commit_of_no_jump hdec hu hj]
    exact ⟨rfl, pc_add_len_le_of_fetchDecode hdec⟩

/-- IN from port 5 gives the tick counter as it was before the step (rule R163). -/
theorem exec_inp_time {d : Word} {r : RegIdx} (hd : d.toNat = r.val + 1) (s : State) :
    exec (.inp d 5#16) s = .next (commitNext 3 (s.setReg r s.time)) := by
  have harm : exec (.inp d 5#16) s = execIn d 5#16 s := rfl
  have hport : inPortOperand 5#16 = .ok .time := rfl
  rw [harm, execIn, (regOperand_ok_iff d r).2 hd, ok_bind, hport]
  rfl

/-- Settles O52. -/
theorem timeTicksOncePerCompletedStep : Obligations.TimeTicksOncePerCompletedStep := by
  refine ⟨fun s t h => ⟨fun hrun ht => ?_, fun hrun ht => ?_, fun hstopped => ?_⟩,
    fun d r s t hd h => ?_⟩
  · obtain ⟨i, u, -, hu, rfl⟩ := eq_commit_of_step_completed hrun h ht
    rw [commit_time, hu.time, BitVec.toNat_add]
    rfl
  · obtain ⟨f, rfl⟩ := eq_raise_of_step_faulted hrun h ht
    rfl
  · cases (step_of_not_running hstopped).symm.trans h
    rfl
  · cases (exec_inp_time hd s).symm.trans h
    exact getReg_setReg_self s r s.time

/-! ### The write-enables (rules R33, R97, R98) -/

/-- The registers outside the write-enable table's row of `i` are in `t` as in `s`; memory, `es` and `fc`
are in HandlerWrites. A field the instruction leaves alone, or may write, holds by `simp`. -/
structure KeepsUnlisted (i : Instr) (s t : State) : Prop where
  x : ∀ r : RegIdx, (∀ d, destWord i = some d → d.toNat ≠ r.val + 1) → t.x[r] = s.x[r] := by simp
  acc : writesAcc i = false → t.acc = s.acc := by simp [writesAcc]
  flags : writesFlags i = false → t.flags = s.flags := by simp [writesFlags]
  sp : writesSp i = false → t.sp = s.sp := by simp [writesSp]
  port : ∀ k : Fin 4, outPort i ≠ some k.val → t.port[k] = s.port[k] := by simp
  video : outPort i ≠ some 4 → t.video = s.video := by simp

/-- Whatever next state the outcome `o` of `i` from `s` answers, it keeps the unlisted registers. -/
def Frames (i : Instr) (s : State) (o : Host.Outcome State Fault Refusal) : Prop :=
  ∀ t, o = .next t → KeepsUnlisted i s t

section
variable {i : Instr} {s : State}

theorem Frames.done {t : State} (h : KeepsUnlisted i s t) : Frames i s (outcome s (.ok t)) := by
  rintro _ ⟨⟩
  exact h

/-- A handler that begins with an operation: its fault writes no register at all. -/
theorem Frames.bind {α : Type} {e : Except ExecFault α} {k : α → Except ExecFault State}
    (h : ∀ a, e = .ok a → Frames i s (outcome s (k a))) : Frames i s (outcome s (e >>= k)) := by
  cases e with
  | error f =>
    rintro _ ⟨⟩
    exact {}
  | ok a => exact h a rfl

theorem Frames.jumpIf (cond : Bool) (target : Word) : Frames i s (jumpIf cond target s) := by
  cases cond <;> exact .done {}

theorem Frames.arithmetic {alu : Word → Word → Except ExecFault Word} {a b : Word}
    (hacc : writesAcc i = true) (hflags : writesFlags i = true) : Frames i s (arithmetic alu a b s) :=
  .bind fun ⟨ra, rb⟩ _ => .bind fun r _ => .done { acc := by simp [hacc], flags := by simp [hflags] }

theorem regOperand_of_regPair {w1 w2 : Word} {r1 r2 : RegIdx} (h : regPair w1 w2 = .ok (r1, r2)) :
    regOperand w1 = .ok r1 := by
  rcases regPair_cases w1 w2 with ⟨q1, q2, hw1, -, e⟩ | ⟨-, e⟩ <;> cases e.symm.trans h
  exact (regOperand_ok_iff w1 r1).2 hw1

/-- A register write goes to the register that the destination word names. -/
theorem x_setReg_of_unlisted {d : Word} {r : RegIdx} (hr : regOperand d = .ok r) (hd : destWord i = some d)
    (t : State) (v : Word) (q : RegIdx) (hq : ∀ d, destWord i = some d → d.toNat ≠ q.val + 1) :
    (t.setReg r v).x[q] = t.x[q] := by
  refine getReg_setReg_of_ne t r v ?_
  rintro rfl
  exact hq d hd ((regOperand_ok_iff d r).1 hr)

/-- An arbiter write goes to the register that the port word names (rules R160, R162). -/
theorem keepsUnlisted_busWrite {src port : Word} {p : BusTarget} (hp : outPortOperand port = .ok p)
    (v : Word) : KeepsUnlisted (.out src port) s (commitNext 3 (busWrite s v p)) := by
  rcases outPortOperand_cases port with ⟨k, hk, e⟩ | ⟨hk, e⟩ | ⟨-, e⟩ <;> cases e.symm.trans hp
  · refine { port := fun q hq => ?_ }
    have hne : k.val ≠ q.val := fun heq => hq (by rw [outPort, hk, heq])
    simp [hne]
  · exact { video := fun hq => absurd (by rw [outPort, hk]) hq }
end

/-- Every instruction, completing or faulting, keeps the registers its row does not list. -/
theorem exec_frames (i : Instr) (s : State) : Frames i s (exec i s) := by
  cases i with
  | halt | loadAI imm | jmp target => exact .done {}
  | loadRI d imm => exact .bind fun r hr => .done { x := x_setReg_of_unlisted hr rfl s imm }
  | loadRM d addr =>
    exact .bind fun r hr => .bind fun v _ => .done { x := x_setReg_of_unlisted hr rfl s v }
  | loadAM addr => exact .bind fun v _ => .done {}
  | storeR src addr =>
    refine .bind fun r _ => .bind fun t ht => ?_
    obtain ⟨-, rfl⟩ := memWrite_eq_ok ht
    exact .done {}
  | storeA addr =>
    refine .bind fun t ht => ?_
    obtain ⟨-, rfl⟩ := memWrite_eq_ok ht
    exact .done {}
  | movRR d src =>
    exact .bind fun ⟨rd, rs⟩ hr =>
      .done { x := x_setReg_of_unlisted (regOperand_of_regPair hr) rfl s (s.getReg rs) }
  | movRA d => exact .bind fun r hr => .done { x := x_setReg_of_unlisted hr rfl s s.acc }
  | movAR src => exact .bind fun r _ => .done {}
  | add a b | sub a b | mul a b | div a b | mod a b => exact .arithmetic rfl rfl
  | cmp a b => exact .bind fun ⟨ra, rb⟩ _ => .done {}
  | jz target | jg target | jl target | je target => exact .jumpIf _ target
  | call target =>
    refine .bind fun t ht => ?_
    obtain ⟨-, -, rfl⟩ := push_eq_ok ht
    exact .done {}
  | ret =>
    refine .bind fun ⟨v, t⟩ ht => ?_
    obtain ⟨-, -, rfl⟩ := pop_eq_ok ht
    exact .done {}
  | push src =>
    refine .bind fun r _ => .bind fun t ht => ?_
    obtain ⟨-, -, rfl⟩ := push_eq_ok ht
    exact .done {}
  | pop d =>
    refine .bind fun r hr => .bind fun ⟨v, t⟩ ht => ?_
    obtain ⟨-, -, rfl⟩ := pop_eq_ok ht
    exact .done { x := x_setReg_of_unlisted hr rfl s v }
  | inp d port =>
    exact .bind fun r hr => .bind fun p _ => .done { x := x_setReg_of_unlisted hr rfl s (busRead s p) }
  | out src port => exact .bind fun r _ => .bind fun p hp => .done (keepsUnlisted_busWrite hp _)

/-- A handler stores at the table's address and nowhere else. -/
theorem HandlerWrites.read_of_unlisted {i : Instr} {s u : State} (hu : HandlerWrites i s u) {a : Nat}
    (ha : storedAddr i s ≠ some a) : u.mem.read a = s.mem.read a := by
  rcases hu.mem with e | ⟨b, v, hb, -, e⟩ <;> rw [e]
  refine Memory.read_write_of_ne _ _ ?_
  rintro rfl
  exact ha hb

/-- The rest of the table: the memory words, `es` and `fc` of an instruction that completes or faults. -/
theorem exec_keeps_mem_es_fc {i : Instr} {s t : State} (h : exec i s = .next t) :
    (∀ a, storedAddr i s ≠ some a → t.mem.read a = s.mem.read a) ∧
      (i ≠ .halt → t.es = .faulted ∨ t.es = s.es) ∧ (t.es ≠ .faulted → t.fc = s.fc) := by
  rcases exec_answers i s with ⟨f, e⟩ | ⟨u, hu, e⟩ <;> cases e.symm.trans h
  · exact ⟨fun _ _ => rfl, fun _ => .inl rfl, fun hne => absurd rfl hne⟩
  · refine ⟨fun a ha => ?_, fun hi => .inr ?_, fun _ => ?_⟩
    · rw [commit_mem, hu.read_of_unlisted ha]
    · rw [commit_es, hu.es, if_neg hi]
    · rw [commit_fc, hu.fc]

/-- Settles O49: the registers, and memory with `es` and `fc`, are framed separately above. -/
theorem writeEnablesFrame : Obligations.WriteEnablesFrame := by
  intro i s t h
  obtain ⟨hx, hacc, hflags, hsp, hport, hvideo⟩ := exec_frames i s t h
  obtain ⟨hmem, hes, hfc⟩ := exec_keeps_mem_es_fc h
  exact ⟨hmem, hx, hacc, hflags, hsp, hport, hvideo, hes, hfc⟩

/-! ### The port registers and `video` are isolated (rules R97, R162) -/

/-- The machine with other values in the port registers and `video`. -/
def withPortSpace (p : Vector Word 4) (v : Word) (s : State) : State := { s with port := p, video := v }

/-- The outcome `o'` is the outcome `o` with those values in the port registers and `video`. -/
def Mirrors (p : Vector Word 4) (v : Word) (o o' : Host.Outcome State Fault Refusal) : Prop :=
  ∀ t, o = .next t → o' = .next (withPortSpace p v t)

section
variable {p : Vector Word 4} {v : Word} {s : State}

theorem Mirrors.done (s t : State) :
    Mirrors p v (outcome s (.ok t)) (outcome (withPortSpace p v s) (.ok (withPortSpace p v t))) := by
  rintro _ ⟨⟩
  rfl

/-- Two handlers that begin with operations that fault alike and answer corresponding values. -/
theorem Mirrors.bind_map {α : Type} {e e' : Except ExecFault α} {g : α → α}
    {k k' : α → Except ExecFault State} (he : e' = e.map g)
    (hk : ∀ a, Mirrors p v (outcome s (k a)) (outcome (withPortSpace p v s) (k' (g a)))) :
    Mirrors p v (outcome s (e >>= k)) (outcome (withPortSpace p v s) (e' >>= k')) := by
  subst he
  cases e with
  | error f =>
    rintro _ ⟨⟩
    rfl
  | ok a => exact hk a

/-- Two handlers that begin with one operation, which does not look at the port space. -/
theorem Mirrors.bind {α : Type} {e : Except ExecFault α} {k k' : α → Except ExecFault State}
    (hk : ∀ a, Mirrors p v (outcome s (k a)) (outcome (withPortSpace p v s) (k' a))) :
    Mirrors p v (outcome s (e >>= k)) (outcome (withPortSpace p v s) (e >>= k')) :=
  .bind_map (g := id) (by cases e <;> rfl) hk

theorem Mirrors.jumpIf (cond : Bool) (target : Word) :
    Mirrors p v (jumpIf cond target s) (jumpIf cond target (withPortSpace p v s)) := by
  cases cond <;> exact .done s _

theorem Mirrors.arithmetic (alu : Word → Word → Except ExecFault Word) (a b : Word) :
    Mirrors p v (arithmetic alu a b s) (arithmetic alu a b (withPortSpace p v s)) :=
  .bind fun ⟨_, _⟩ => .bind fun _ => .done s _
end

section
variable (p : Vector Word 4) (v : Word) (s : State)

theorem memWrite_withPortSpace (addr w : Word) :
    memWrite addr w (withPortSpace p v s) = (memWrite addr w s).map (withPortSpace p v) := by
  rcases memWrite_cases addr w s with ⟨h, e⟩ | ⟨h, e⟩
  · rw [e, memWrite_of_lt h]
    rfl
  · rw [e, memWrite_of_ge h]
    rfl

theorem push_withPortSpace (w : Word) :
    push w (withPortSpace p v s) = (push w s).map (withPortSpace p v) := by
  have hsp : (withPortSpace p v s).sp = s.sp := rfl
  rw [push, push, hsp, memWrite_withPortSpace]
  split
  · rfl
  · cases memWrite s.sp w s <;> rfl

theorem pop_withPortSpace :
    pop (withPortSpace p v s) = (pop s).map (Prod.map id (withPortSpace p v)) := by
  have hsp : (withPortSpace p v s).sp = s.sp := rfl
  have hread : memRead (s.sp + 1#16) (withPortSpace p v s) = memRead (s.sp + 1#16) s := rfl
  rw [pop, pop, hsp, hread]
  split
  · rfl
  · cases memRead (s.sp + 1#16) s <;> rfl
end

/-- Every instruction but IN and OUT does the same whatever the port space holds. -/
theorem exec_mirrors (p : Vector Word 4) (v : Word) (i : Instr) (s : State)
    (hin : ∀ d port, i ≠ .inp d port) (hout : ∀ src port, i ≠ .out src port) :
    Mirrors p v (exec i s) (exec i (withPortSpace p v s)) := by
  cases i with
  | halt | loadAI imm | jmp target => exact .done s _
  | loadRI d imm | movRA d | movAR d => exact .bind fun r => .done s _
  | loadRM d addr => exact .bind fun r => .bind fun w => .done s _
  | loadAM addr => exact .bind fun w => .done s _
  | storeR src addr =>
    exact .bind fun r => .bind_map (memWrite_withPortSpace p v s addr _) fun t => .done s _
  | storeA addr => exact .bind_map (memWrite_withPortSpace p v s addr _) fun t => .done s _
  | movRR a b | cmp a b => exact .bind fun ⟨ra, rb⟩ => .done s _
  | add a b | sub a b | mul a b | div a b | mod a b => exact .arithmetic _ a b
  | jz target | jg target | jl target | je target => exact .jumpIf _ target
  | call target => exact .bind_map (push_withPortSpace p v s _) fun t => .done s _
  | ret => exact .bind_map (pop_withPortSpace p v s) fun ⟨w, t⟩ => .done s _
  | push src => exact .bind fun r => .bind_map (push_withPortSpace p v s _) fun t => .done s _
  | pop d => exact .bind fun r => .bind_map (pop_withPortSpace p v s) fun ⟨w, t⟩ => .done s _
  | inp d port => exact absurd rfl (hin d port)
  | out src port => exact absurd rfl (hout src port)

/-- Settles O56. -/
theorem portsAreIsolated : Obligations.PortsAreIsolated :=
  fun i s t p v hin hout h => exec_mirrors p v i s hin hout t h

end Sys2Proof.Machine
end

section
/-!
SUPPORT and CERTIFICATES of the family 41_data_movement.md: how a handler's checks pass or fail, one at a
time, and with them LOAD, STORE and MOV.
-/

namespace Sys2Proof.Machine

/-! ### A handler's next check passes, or decides the outcome (rules R96, R98) -/

section
variable {α : Type} {s : State} {e : Except ExecFault α} {k : α → Except ExecFault State}

theorem outcome_of_check_ok {a : α} (h : e = .ok a) : outcome s (e >>= k) = outcome s (k a) := by
  rw [h, ok_bind]

theorem outcome_of_check_error {f : ExecFault} (h : e = .error f) :
    outcome s (e >>= k) = .next (raise f s) := by
  rw [h, error_bind, outcome_error]
end

/-- A register-index word outside 1..15 in the first operand ends the handler (rules R22, R72). -/
theorem outcome_of_illegal_reg {w : Word} (h : ¬ (1 ≤ w.toNat ∧ w.toNat ≤ 15)) {s : State}
    {k : RegIdx → Except ExecFault State} :
    outcome s (regOperand w >>= k) = .next (raise .invalidRegister s) :=
  outcome_of_check_error (regOperand_error h)

theorem exists_regOperand_eq_ok {w : Word} (hlo : 1 ≤ w.toNat) (hhi : w.toNat ≤ 15) :
    ∃ r, regOperand w = .ok r := by
  rcases regOperand_cases w with ⟨r, -, e⟩ | ⟨hillegal, -⟩
  · exact ⟨r, e⟩
  · exact absurd ⟨hlo, hhi⟩ hillegal

theorem regPair_of_legal {w1 w2 : Word} {r1 r2 : RegIdx} (h1 : w1.toNat = r1.val + 1)
    (h2 : w2.toNat = r2.val + 1) : regPair w1 w2 = .ok (r1, r2) := by
  simp only [regPair, (regOperand_ok_iff w1 r1).2 h1, (regOperand_ok_iff w2 r2).2 h2]

theorem regPair_of_illegal {w1 w2 : Word}
    (h : ¬ (1 ≤ w1.toNat ∧ w1.toNat ≤ 15) ∨ ¬ (1 ≤ w2.toNat ∧ w2.toNat ≤ 15)) :
    regPair w1 w2 = .error .invalidRegister := by
  rcases regPair_cases w1 w2 with ⟨r1, r2, h1, h2, -⟩ | ⟨-, e⟩
  · omega
  · exact e

/-! ### LOAD (rules R110 to R113) -/

/-- Settles O17. -/
theorem loadImmediateToRegister : Obligations.LoadImmediateToRegister :=
  ⟨fun _ _ _ => rfl, fun d _ r _ hd => outcome_of_check_ok ((regOperand_ok_iff d r).2 hd),
    fun _ _ _ hd => outcome_of_illegal_reg hd⟩

/-- Settles O18: the register check comes first, so it alone decides when it fails. -/
theorem loadMemoryToRegister : Obligations.LoadMemoryToRegister := by
  refine ⟨fun _ _ _ => rfl, fun d addr r s hd haddr => ?_, fun _ _ _ hd => outcome_of_illegal_reg hd,
    fun d addr s hlo hhi haddr => ?_⟩
  · exact (outcome_of_check_ok ((regOperand_ok_iff d r).2 hd)).trans
      (outcome_of_check_ok (memRead_of_lt haddr s))
  · obtain ⟨r, hr⟩ := exists_regOperand_eq_ok hlo hhi
    exact (outcome_of_check_ok hr).trans (outcome_of_check_error (memRead_of_ge haddr s))

/-- Settles O19: the handler makes no check. -/
theorem loadImmediateToAccumulator : Obligations.LoadImmediateToAccumulator :=
  ⟨fun _ _ => rfl, fun _ _ => rfl⟩

/-- Settles O20. -/
theorem loadMemoryToAccumulator : Obligations.LoadMemoryToAccumulator :=
  ⟨fun _ _ => rfl, fun _ s haddr => outcome_of_check_ok (memRead_of_lt haddr s),
    fun _ s haddr => outcome_of_check_error (memRead_of_ge haddr s)⟩

/-! ### STORE (rules R114, R115) -/

/-- STORE A,[addr] with a legal address completes (rule R115). -/
theorem exec_storeA_of_legal {addr : Word} (haddr : addr.toNat < 32768) (s : State) :
    exec (.storeA addr) s = .next (commitNext 2 { s with mem := s.mem.write addr.toNat s.acc }) :=
  outcome_of_check_ok (memWrite_of_lt haddr s.acc s)

/-- Settles O21. -/
theorem storeRegister : Obligations.StoreRegister := by
  refine ⟨fun _ _ _ => rfl, fun src addr r s hsrc haddr => ?_,
    fun _ _ _ hsrc => outcome_of_illegal_reg hsrc, fun src addr s hlo hhi haddr => ?_⟩
  · exact ⟨_, exec_storeR_of_legal hsrc haddr s, Memory.read_write_self _ _ _,
      fun a ha => Memory.read_write_of_ne _ _ ha.symm, rfl⟩
  · obtain ⟨r, hr⟩ := exists_regOperand_eq_ok hlo hhi
    exact (outcome_of_check_ok hr).trans (outcome_of_check_error (memWrite_of_ge haddr _ s))

/-- Settles O22. -/
theorem storeAccumulator : Obligations.StoreAccumulator := by
  refine ⟨fun _ _ => rfl, fun addr s haddr => ?_,
    fun _ s haddr => outcome_of_check_error (memWrite_of_ge haddr s.acc s)⟩
  exact ⟨_, exec_storeA_of_legal haddr s, Memory.read_write_self _ _ _,
    fun a ha => Memory.read_write_of_ne _ _ ha.symm, rfl⟩

/-! ### MOV (rules R116 to R118) -/

/-- Settles O23. -/
theorem moveRegisterToRegister : Obligations.MoveRegisterToRegister :=
  ⟨fun _ _ _ => rfl, fun _ _ _ _ _ hd hsrc => outcome_of_check_ok (regPair_of_legal hd hsrc),
    fun _ _ _ h => outcome_of_check_error (regPair_of_illegal h)⟩

/-- Settles O24. -/
theorem moveAccumulatorToRegister : Obligations.MoveAccumulatorToRegister :=
  ⟨fun _ _ => rfl, fun d r _ hd => outcome_of_check_ok ((regOperand_ok_iff d r).2 hd),
    fun _ _ hd => outcome_of_illegal_reg hd⟩

/-- Settles O25. -/
theorem moveRegisterToAccumulator : Obligations.MoveRegisterToAccumulator :=
  ⟨fun _ _ => rfl, fun src r _ hsrc => outcome_of_check_ok ((regOperand_ok_iff src r).2 hsrc),
    fun _ _ hsrc => outcome_of_illegal_reg hsrc⟩

end Sys2Proof.Machine
end

section
/-!
SUPPORT and CERTIFICATES of the family 42_arithmetic.md: what the shape that the five instructions share
answers for an ALU result and for each fault, and with it ADD, SUB, MUL, DIV and MOD.
-/

namespace Sys2Proof.Machine

/-! ### The shape the five instructions share (rules R120, R128) -/

/-- The flags of a result in integers (rule R120): L is never true, as no unsigned word is below zero. -/
theorem resultFlags_eq_toNat (r : Word) :
    resultFlags r =
      { z := decide (r.toNat = 0), g := decide (r.toNat ≠ 0), l := false, e := decide (r.toNat = 0) } := by
  simp only [resultFlags_eq, ne_eq, BitVec.toNat_eq, BitVec.toNat_ofNat, Nat.zero_mod]

section
variable {alu : Word → Word → Except ExecFault Word} {a b : Word} {s : State}

theorem arithmetic_of_alu_ok {ra rb : RegIdx} {r : Word} (ha : a.toNat = ra.val + 1)
    (hb : b.toNat = rb.val + 1) (halu : alu (s.getReg ra) (s.getReg rb) = .ok r) :
    arithmetic alu a b s = .next { s with
      acc := r
      flags := { z := decide (r.toNat = 0), g := decide (r.toNat ≠ 0), l := false, e := decide (r.toNat = 0) }
      pc := s.pc + 3#16, time := s.time + 1#16 } := by
  rw [← resultFlags_eq_toNat]
  exact (outcome_of_check_ok (regPair_of_legal ha hb)).trans (outcome_of_check_ok halu)

theorem arithmetic_of_alu_error {ra rb : RegIdx} {f : ExecFault} (ha : a.toNat = ra.val + 1)
    (hb : b.toNat = rb.val + 1) (halu : alu (s.getReg ra) (s.getReg rb) = .error f) :
    arithmetic alu a b s = .next (raise f s) :=
  (outcome_of_check_ok (regPair_of_legal ha hb)).trans (outcome_of_check_error halu)

theorem arithmetic_of_illegal_reg
    (h : ¬ (1 ≤ a.toNat ∧ a.toNat ≤ 15) ∨ ¬ (1 ≤ b.toNat ∧ b.toNat ≤ 15)) :
    arithmetic alu a b s = .next (raise .invalidRegister s) :=
  outcome_of_check_error (regPair_of_illegal h)
end

/-! ### ADD, SUB and MUL (rules R121 to R123, R126) -/

/-- The stored difference is the integer difference modulo 65536, a borrow included (rule R126). -/
theorem toNat_sub_eq_int_emod (x y : Word) :
    ((x - y).toNat : Int) = ((x.toNat : Int) - y.toNat) % 65536 := by
  rw [BitVec.toNat_sub]
  omega

/-- Settles O26: each instruction is the shared shape with its own total ALU function. -/
theorem addSubMulTruncate : Obligations.AddSubMulTruncate := by
  refine ⟨fun _ _ _ => ⟨rfl, rfl, rfl⟩, fun a b ra rb s ha hb => ⟨?add, ?sub, ?mul⟩, fun a b s h => ?illegal⟩
  case add => exact ⟨s.x[ra] + s.x[rb], BitVec.toNat_add _ _, arithmetic_of_alu_ok ha hb rfl⟩
  case sub => exact ⟨s.x[ra] - s.x[rb], toNat_sub_eq_int_emod _ _, arithmetic_of_alu_ok ha hb rfl⟩
  case mul => exact ⟨s.x[ra] * s.x[rb], BitVec.toNat_mul _ _, arithmetic_of_alu_ok ha hb rfl⟩
  case illegal =>
    exact ⟨arithmetic_of_illegal_reg h, arithmetic_of_illegal_reg h, arithmetic_of_illegal_reg h⟩

/-! ### DIV and MOD (rules R124, R125, R127) -/

theorem aluDiv_of_ne_zero {y : Word} (h : y.toNat ≠ 0) (x : Word) : aluDiv x y = .ok (x / y) :=
  ((aluDiv_cases x y).resolve_left fun hy => h (congrArg BitVec.toNat hy.1)).2

theorem aluMod_of_ne_zero {y : Word} (h : y.toNat ≠ 0) (x : Word) : aluMod x y = .ok (x % y) :=
  ((aluMod_cases x y).resolve_left fun hy => h (congrArg BitVec.toNat hy.1)).2

theorem aluDiv_of_eq_zero {y : Word} (h : y.toNat = 0) (x : Word) : aluDiv x y = .error .arithmeticFault :=
  ((aluDiv_cases x y).resolve_right fun hy => hy.1 (BitVec.eq_of_toNat_eq h)).2

theorem aluMod_of_eq_zero {y : Word} (h : y.toNat = 0) (x : Word) : aluMod x y = .error .arithmeticFault :=
  ((aluMod_cases x y).resolve_right fun hy => hy.1 (BitVec.eq_of_toNat_eq h)).2

/-- The division equation of rule R127. -/
theorem toNat_eq_div_mul_add_mod (x y : Word) : x.toNat = (x / y).toNat * y.toNat + (x % y).toNat := by
  rw [BitVec.toNat_udiv, BitVec.toNat_umod, Nat.div_add_mod']

theorem toNat_mod_lt {y : Word} (h : y.toNat ≠ 0) (x : Word) : (x % y).toNat < y.toNat := by
  rw [BitVec.toNat_umod]
  exact Nat.mod_lt _ (Nat.pos_of_ne_zero h)

/-- Settles O27: with legal register words the divisor alone decides between the result and the fault. -/
theorem divModUnsigned : Obligations.DivModUnsigned := by
  refine ⟨fun _ _ _ => ⟨rfl, rfl⟩, fun a b ra rb s ha hb hd => ?result,
    fun a b ra rb s ha hb hd => ?zero, fun a b s h => ?illegal⟩
  case result =>
    exact ⟨s.x[ra] / s.x[rb], s.x[ra] % s.x[rb], toNat_eq_div_mul_add_mod _ _, toNat_mod_lt hd _,
      arithmetic_of_alu_ok ha hb (aluDiv_of_ne_zero hd _),
      arithmetic_of_alu_ok ha hb (aluMod_of_ne_zero hd _)⟩
  case zero =>
    exact ⟨arithmetic_of_alu_error ha hb (aluDiv_of_eq_zero hd _),
      arithmetic_of_alu_error ha hb (aluMod_of_eq_zero hd _)⟩
  case illegal => exact ⟨arithmetic_of_illegal_reg h, arithmetic_of_illegal_reg h⟩

end Sys2Proof.Machine
end

section
/-!
SUPPORT and CERTIFICATES of the family 43_comparison.md: the flag function on unsigned values, and with it
CMP.
-/

namespace Sys2Proof.Machine

/-! ### The flag function (rule R130) -/

/-- The flags of a comparison in integers: the word difference is zero for equal words only, so Z is E. -/
theorem setFlagsCompare_eq_toNat (a b : Word) :
    setFlagsCompare a b =
      { z := decide (a.toNat = b.toNat), g := decide (a.toNat > b.toNat)
        l := decide (a.toNat < b.toNat), e := decide (a.toNat = b.toNat) } := by
  simp only [setFlagsCompare, sub_eq_zero_iff]
  simp only [BitVec.toNat_eq, BitVec.lt_def, gt_iff_lt]

/-- Two words lie less than 65536 apart, so their difference is a multiple of it for equal words only. -/
theorem int_sub_emod_eq_zero_iff (a b : Word) :
    ((a.toNat : Int) - b.toNat) % 65536 = 0 ↔ a.toNat = b.toNat := by
  have ha := a.isLt
  have hb := b.isLt
  omega

/-- Exactly one of G, L and E: the order of the naturals is total and strict. -/
theorem gt_add_lt_add_eq_toNat_eq_one (m n : Nat) :
    (decide (m > n)).toNat + (decide (m < n)).toNat + (decide (m = n)).toNat = 1 := by
  rcases Nat.lt_trichotomy m n with h | h | h
  · simp [h, Nat.ne_of_lt h, Nat.lt_asymm h]
  · simp [h]
  · simp [h, Nat.ne_of_gt h, Nat.lt_asymm h]

/-- Settles O11. -/
theorem compareSetsFlags : Obligations.CompareSetsFlags := by
  intro a b
  rw [setFlagsCompare_eq_toNat, decide_eq_decide.2 (int_sub_emod_eq_zero_iff a b)]
  exact ⟨rfl, rfl, gt_add_lt_add_eq_toNat_eq_one _ _⟩

/-! ### CMP (rule R131) -/

/-- CMP with two legal register words completes (rule R131). -/
theorem exec_cmp_of_legal {a b : Word} {ra rb : RegIdx} (ha : a.toNat = ra.val + 1)
    (hb : b.toNat = rb.val + 1) (s : State) :
    exec (.cmp a b) s = .next (commitNext 3 { s with flags := setFlagsCompare s.x[ra] s.x[rb] }) :=
  (outcome_of_check_ok (regPair_of_legal ha hb)).trans rfl

/-- Settles O28. -/
theorem compareRegisters : Obligations.CompareRegisters := by
  refine ⟨fun _ _ _ => rfl, fun a b ra rb s ha hb => ?legal,
    fun _ _ _ h => outcome_of_check_error (regPair_of_illegal h)⟩
  case legal =>
    rw [exec_cmp_of_legal ha hb, setFlagsCompare_eq_toNat]
    rfl

end Sys2Proof.Machine
end

section
/-!
SUPPORT and CERTIFICATES of the family 44_control_flow.md: the stack primitives on each side of their
checks, a pop of the word a push stored, and with them the jumps, CALL and RET.
-/

namespace Sys2Proof.Machine

/-! ### Push and pop, on each side of their checks (rules R150, R151) -/

section
variable {s : State}

theorem push_of_region (hlo : 32513 ≤ s.sp.toNat) (hhi : s.sp.toNat ≤ 32767) (v : Word) :
    push v s = .ok { s with mem := s.mem.write s.sp.toNat v, sp := s.sp - 1#16 } := by
  rcases push_cases v s with ⟨-, -, e⟩ | ⟨hlt, -⟩ | ⟨hge, -⟩
  · exact e
  · omega
  · omega

theorem push_of_full (h : s.sp.toNat < 32513) (v : Word) : push v s = .error .stackFault := by
  rcases push_cases v s with ⟨hge, -⟩ | ⟨-, e⟩ | ⟨hge, -⟩
  · omega
  · exact e
  · omega

theorem pop_of_nonempty (h : s.sp.toNat < 32767) :
    pop s = .ok (s.mem.read (s.sp.toNat + 1), { s with sp := s.sp + 1#16 }) := by
  rcases pop_cases s with ⟨-, e⟩ | ⟨hge, -⟩
  · exact e
  · omega

theorem pop_of_empty (h : 32767 ≤ s.sp.toNat) : pop s = .error .stackFault := by
  rcases pop_cases s with ⟨hlt, -⟩ | ⟨-, e⟩
  · omega
  · exact e

/-- One below the `sp` of a completed push, a pop takes the word at that `sp` and moves back up to it. -/
theorem pop_of_sp_eq_sub_one {sp : Word} (hlo : 32513 ≤ sp.toNat) (hhi : sp.toNat < 32768)
    (hsp : s.sp = sp - 1#16) : pop s = .ok (s.mem.read sp.toNat, { s with sp := sp }) := by
  have hnat : s.sp.toNat + 1 = sp.toNat := by
    rw [hsp]
    bv_omega
  have hup : s.sp + 1#16 = sp := by rw [hsp, BitVec.sub_add_cancel]
  rw [pop_of_nonempty (by omega), hnat, hup]
end

/-! ### The jumps (rules R140 to R144) -/

theorem jumpIf_eq_next (cond : Bool) (target : Word) (s : State) :
    jumpIf cond target s =
      .next { s with pc := if cond then target else s.pc + 2#16, time := s.time + 1#16 } := by
  cases cond with
  | true => rfl
  | false => rfl

/-- Settles O29: the handler makes no check. -/
theorem jumpAlways : Obligations.JumpAlways := ⟨fun _ _ => rfl, fun _ _ => rfl⟩

/-- Settles O30: each instruction is the shared jump with its own flag. -/
theorem conditionalJumpsReadTheirFlag : Obligations.ConditionalJumpsReadTheirFlag :=
  ⟨fun _ _ => ⟨rfl, rfl, rfl, rfl⟩, fun target s =>
    ⟨jumpIf_eq_next s.flags.z target s, jumpIf_eq_next s.flags.g target s,
      jumpIf_eq_next s.flags.l target s, jumpIf_eq_next s.flags.e target s⟩⟩

/-! ### CALL and RET (rules R145, R146) -/

section
variable {s t u : State} {v target : Word}

theorem exec_call_of_push (h : push (s.pc + 2#16) s = .ok u) :
    exec (.call target) s = .next (commitJump target u) :=
  outcome_of_check_ok h

theorem exec_ret_of_pop (h : pop s = .ok (v, u)) : exec .ret s = .next (commitJump v u) :=
  outcome_of_check_ok h

/-- A CALL that takes no fault has pushed the address after it and jumped. -/
theorem eq_commitJump_of_exec_call (h : exec (.call target) s = .next t) (ht : t.es ≠ .faulted) :
    ∃ u, push (s.pc + 2#16) s = .ok u ∧ t = commitJump target u := by
  cases hpush : push (s.pc + 2#16) s with
  | ok u =>
    cases (exec_call_of_push hpush).symm.trans h
    exact ⟨u, rfl, rfl⟩
  | error f =>
    have hfault : exec (.call target) s = .next (raise f s) := outcome_of_check_error hpush
    cases hfault.symm.trans h
    exact absurd (raise_es f s) ht
end

/-- Settles O31: the push alone decides between the jump and the fault. -/
theorem callPushesReturnAddress : Obligations.CallPushesReturnAddress := by
  refine ⟨fun _ _ => rfl, fun target s hlo hhi => ?pushed, fun target s hsp => ?full⟩
  case pushed =>
    exact ⟨_, exec_call_of_push (push_of_region hlo hhi _), Memory.read_write_self _ _ _,
      fun a ha => Memory.read_write_of_ne _ _ ha.symm, rfl⟩
  case full => exact outcome_of_check_error (push_of_full (by omega) _)

/-- Settles O32: the pop alone decides between the jump and the fault. -/
theorem returnPopsIntoPc : Obligations.ReturnPopsIntoPc :=
  ⟨fun _ => rfl, fun _ hsp => exec_ret_of_pop (pop_of_nonempty hsp),
    fun _ hsp => outcome_of_check_error (pop_of_empty hsp.ge)⟩

/-- Settles O33: the commit of the CALL keeps memory and `sp` as the push left them, so the RET pops the
pushed address. -/
theorem returnUndoesCall : Obligations.ReturnUndoesCall := by
  intro target s t _ hcall ht
  obtain ⟨u, hpush, rfl⟩ := eq_commitJump_of_exec_call hcall ht
  obtain ⟨hlo, hhi, hu⟩ := push_eq_ok hpush
  have hsp : (commitJump target u).sp = s.sp - 1#16 := by rw [commitJump_sp, hu]
  have hread : (commitJump target u).mem.read s.sp.toNat = s.pc + 2#16 := by
    rw [commitJump_mem, hu, Memory.read_write_self]
  have htime : (commitJump target u).time + 1#16 = s.time + 2#16 := by
    rw [commitJump_time, hu, BitVec.add_assoc]
    rfl
  rw [exec_ret_of_pop (pop_of_sp_eq_sub_one hlo hhi hsp), hread, ← htime]
  rfl

end Sys2Proof.Machine
end

section
/-!
SUPPORT and CERTIFICATES of the family 45_stack.md: the stack primitives, the words a list of pushes leaves in
the stack region, and with them PUSH and POP.
-/

namespace Sys2Proof.Machine

/-! ### The stack primitives (rules R150, R151) -/

/-- A pop right after a push gives the word back and moves `sp` back. -/
theorem pop_of_push_eq_ok {v : Word} {s t : State} (h : push v s = .ok t) :
    pop t = .ok (v, { t with sp := s.sp }) := by
  obtain ⟨hlo, hhi, rfl⟩ := push_eq_ok h
  rw [pop_of_sp_eq_sub_one hlo hhi rfl, Memory.read_write_self]

/-- Settles O12: each primitive on each side of its check, and the pop of a word just pushed. -/
theorem stackPrimitives : Obligations.StackPrimitives :=
  ⟨fun v _ hlo hhi => push_of_region hlo hhi v, fun v _ h => push_of_full h v,
    fun _ h => pop_of_nonempty h, fun _ h => pop_of_empty h, fun _ _ _ _ h => pop_of_push_eq_ok h⟩

/-! ### The capacity of the stack (rule R154) -/

/-- The stack of `t` is that of `s` with the words `vs` pushed, the first of them at the `sp` of `s`. -/
structure Pushed (vs : List Word) (s t : State) : Prop where
  sp : t.sp.toNat + vs.length = s.sp.toNat
  word : ∀ (i : Nat) (h : i < vs.length), t.mem.read (s.sp.toNat - i) = vs[i]
  /-- what lies on the stack already is kept -/
  above : ∀ a, s.sp.toNat < a → t.mem.read a = s.mem.read a

theorem toNat_sp_of_push_eq_ok {v : Word} {s u : State} (h : push v s = .ok u) :
    u.sp.toNat + 1 = s.sp.toNat := by
  obtain ⟨hlo, -, rfl⟩ := push_eq_ok h
  bv_omega

/-- One push, and the others from the state it leaves, which keep its word as it lies above their `sp`. -/
theorem Pushed.cons {v : Word} {vs : List Word} {s u t : State} (hu : push v s = .ok u)
    (ht : Pushed vs u t) : Pushed (v :: vs) s t := by
  have hdown := toNat_sp_of_push_eq_ok hu
  have hmem : u.mem = s.mem.write s.sp.toNat v := by
    obtain ⟨-, -, rfl⟩ := push_eq_ok hu
    rfl
  obtain ⟨hsp, hword, habove⟩ := ht
  refine ⟨?sp, fun i hi => ?word, fun a ha => ?above⟩
  case sp =>
    rw [List.length_cons]
    omega
  case word =>
    cases i with
    | zero =>
      rw [Nat.sub_zero, habove _ (by omega), hmem, Memory.read_write_self]
      rfl
    | succ i =>
      rw [List.getElem_cons_succ, ← hword i (Nat.lt_of_succ_lt_succ hi), ← hdown, Nat.add_sub_add_right]
  case above => rw [habove a (by omega), hmem, Memory.read_write_of_ne _ _ (by omega)]

/-- As many words as the region has room for can be pushed. -/
theorem pushAll_of_room (vs : List Word) {s : State} (hroom : 32512 + vs.length ≤ s.sp.toNat)
    (hhi : s.sp.toNat ≤ 32767) : ∃ t, pushAll vs s = .ok t ∧ Pushed vs s t := by
  induction vs generalizing s with
  | nil => exact ⟨s, rfl, rfl, nofun, fun _ _ => rfl⟩
  | cons v vs ih =>
    rw [List.length_cons] at hroom
    obtain ⟨u, hu⟩ : ∃ u, push v s = .ok u := ⟨_, push_of_region (by omega) hhi v⟩
    have hdown := toNat_sp_of_push_eq_ok hu
    obtain ⟨t, ht, hpushed⟩ := ih (s := u) (by omega) (by omega)
    exact ⟨t, by rwa [pushAll, hu], hpushed.cons hu⟩

/-- Settles O13: from the top of the region there is room for 255 words, and after them `sp` is at its
bottom. -/
theorem stackHolds255Words : Obligations.StackHolds255Words := by
  intro vs s htop hlen
  obtain ⟨t, ht, hsp, hword, -⟩ := pushAll_of_room vs (s := s) (by omega) htop.le
  rw [htop] at hsp hword
  exact ⟨t, ht, by omega, hword, fun hfull => push_of_full (by omega)⟩

/-! ### PUSH and POP (rules R152, R153) -/

/-- Settles O34: the register check comes first, then the push decides. -/
theorem pushStoresRegister : Obligations.PushStoresRegister := by
  refine ⟨fun _ _ => rfl, fun src r s hsrc hlo hhi => ?pushed,
    fun _ _ hsrc => outcome_of_illegal_reg hsrc, fun src s hlo hhi hsp => ?full⟩
  case pushed =>
    exact ⟨_, (outcome_of_check_ok ((regOperand_ok_iff src r).2 hsrc)).trans
      (outcome_of_check_ok (push_of_region hlo hhi (s.getReg r))), Memory.read_write_self _ _ _,
      fun a ha => Memory.read_write_of_ne _ _ ha.symm, rfl⟩
  case full =>
    obtain ⟨r, hr⟩ := exists_regOperand_eq_ok hlo hhi
    exact (outcome_of_check_ok hr).trans (outcome_of_check_error (push_of_full (by omega) _))

/-- Settles O35: the register check comes first, then the pop decides. -/
theorem popLoadsRegister : Obligations.PopLoadsRegister := by
  refine ⟨fun _ _ => rfl, fun d r s hd hsp => ?popped,
    fun _ _ hd => outcome_of_illegal_reg hd, fun d s hlo hhi hsp => ?empty⟩
  case popped =>
    exact (outcome_of_check_ok ((regOperand_ok_iff d r).2 hd)).trans
      (outcome_of_check_ok (pop_of_nonempty hsp))
  case empty =>
    obtain ⟨r, hr⟩ := exists_regOperand_eq_ok hlo hhi
    exact (outcome_of_check_ok hr).trans (outcome_of_check_error (pop_of_empty hsp.ge))

end Sys2Proof.Machine
end

section
/-!
SUPPORT and CERTIFICATES of the family 46_io.md: the port-space number of each register the arbiter reads or
writes, and with it IN and OUT; and the device write beside the step.
-/

namespace Sys2Proof.Machine

/-! ### Device writes (rule R166) -/

theorem getElem_port_deviceWrite (k : Fin 4) (v : Word) (s : State) (j : Fin 4) :
    (deviceWrite k v s).port[j] = if k = j then v else s.port[j] := by
  simp [Vector.getElem_set, Fin.ext_iff]

/-- Settles O6. -/
theorem deviceWriteChangesOnePort : Obligations.DeviceWriteChangesOnePort := fun k v s =>
  ⟨deviceWrite k v s, rfl, (getElem_port_deviceWrite k v s k).trans (if_pos rfl),
    fun j hj => (getElem_port_deviceWrite k v s j).trans (if_neg hj.symm), rfl⟩

/-! ### The port space (rules R75, R160, R161) -/

/-- The port number of a register IN can read (rule R160). -/
def BusSource.number : BusSource → Nat
  | .port k => k.val
  | .video => 4
  | .time => 5

/-- The port number of a register OUT can write (rule R160). -/
def BusTarget.number : BusTarget → Nat
  | .port k => k.val
  | .video => 4

theorem inPortOperand_of_number {w : Word} (p : BusSource) (h : w.toNat = p.number) :
    inPortOperand w = .ok p := by
  cases p with
  | port k => simp [inPortOperand, show w.toNat = k.val from h]
  | video => simp [inPortOperand, Config.videoPort, show w.toNat = 4 from h]
  | time => simp [inPortOperand, Config.videoPort, Config.timePort, show w.toNat = 5 from h]

theorem inPortOperand_of_gt {w : Word} (h : 5 < w.toNat) : inPortOperand w = .error .invalidPort := by
  rcases inPortOperand_cases w with ⟨k, hk, -⟩ | ⟨h4, -⟩ | ⟨h5, -⟩ | ⟨-, e⟩
  · omega
  · omega
  · omega
  · exact e

theorem outPortOperand_of_number {w : Word} (p : BusTarget) (h : w.toNat = p.number) :
    outPortOperand w = .ok p := by
  cases p with
  | port k => simp [outPortOperand, show w.toNat = k.val from h]
  | video => simp [outPortOperand, Config.videoPort, show w.toNat = 4 from h]

theorem outPortOperand_of_gt {w : Word} (h : 4 < w.toNat) : outPortOperand w = .error .invalidPort := by
  rcases outPortOperand_cases w with ⟨k, hk, -⟩ | ⟨h4, -⟩ | ⟨-, e⟩
  · omega
  · omega
  · exact e

/-! ### IN and OUT (rules R163, R164) -/

/-- IN into a general register from a register of the port space completes (rule R163). -/
theorem exec_inp_of_number {d port : Word} {r : RegIdx} (hd : d.toNat = r.val + 1) (p : BusSource)
    (hp : port.toNat = p.number) (s : State) :
    exec (.inp d port) s = .next (commitNext 3 (s.setReg r (busRead s p))) :=
  (outcome_of_check_ok ((regOperand_ok_iff d r).2 hd)).trans
    (outcome_of_check_ok (inPortOperand_of_number p hp))

/-- OUT from a general register to a writable register of the port space completes (rule R164). -/
theorem exec_out_of_number {src port : Word} {r : RegIdx} (hsrc : src.toNat = r.val + 1) (p : BusTarget)
    (hp : port.toNat = p.number) (s : State) :
    exec (.out src port) s = .next (commitNext 3 (busWrite s (s.getReg r) p)) :=
  (outcome_of_check_ok ((regOperand_ok_iff src r).2 hsrc)).trans
    (outcome_of_check_ok (outPortOperand_of_number p hp))

/-- Settles O36: the register check comes first, then the port number selects what is read. -/
theorem inReadsPortSpace : Obligations.InReadsPortSpace := by
  refine ⟨fun _ _ _ => rfl, fun d port r s hd => ⟨fun k hk => ?port, fun h4 => ?video, fun h5 => ?time,
    fun hgt => ?invalid⟩, fun _ _ _ hd => outcome_of_illegal_reg hd⟩
  case port => exact exec_inp_of_number hd (.port k) hk s
  case video => exact exec_inp_of_number hd .video h4 s
  case time => exact exec_inp_of_number hd .time h5 s
  case invalid =>
    exact (outcome_of_check_ok ((regOperand_ok_iff d r).2 hd)).trans
      (outcome_of_check_error (inPortOperand_of_gt hgt))

/-- Settles O37: the register check comes first, then the port number selects what is written. -/
theorem outWritesPortSpace : Obligations.OutWritesPortSpace := by
  refine ⟨fun _ _ _ => rfl, fun src port r s hsrc => ⟨fun k hk => ?port, fun h4 => ?video,
    fun hgt => ?invalid⟩, fun _ _ _ hsrc => outcome_of_illegal_reg hsrc⟩
  case port => exact exec_out_of_number hsrc (.port k) hk s
  case video => exact exec_out_of_number hsrc .video h4 s
  case invalid =>
    exact (outcome_of_check_ok ((regOperand_ok_iff src r).2 hsrc)).trans
      (outcome_of_check_error (outPortOperand_of_gt hgt))

end Sys2Proof.Machine
end

section
/-!
SUPPORT and CERTIFICATES of the family 47_halt.md: HALT makes no check, and the state it leaves is Halted,
where `execute` is idle.
-/

namespace Sys2Proof.Machine

/-- HALT always completes: Halted, then the engine's own commit of a one-word instruction (rule R170). -/
theorem exec_halt (s : State) : exec .halt s = .next (commitNext 1 { s with es := .halted }) := rfl

/-- HALT does not leave the machine Running. -/
theorem not_running_of_exec_halt {s t : State} (h : exec .halt s = .next t) : t.es ≠ .running := by
  rw [exec_halt] at h
  obtain rfl := Host.Outcome.next.inj h
  simp

/-- Settles O38: the decoder reads back HALT's one word, and the state HALT leaves is idle. -/
theorem haltStopsTheMachine : Obligations.HaltStopsTheMachine :=
  ⟨decode_encode_append .halt, exec_halt, fun _ _ h => step_of_not_running (not_running_of_exec_halt h)⟩

end Sys2Proof.Machine
end

section
/-!
SUPPORT and CERTIFICATES of the families 60_exceptions.md and 70_reset_and_hazards.md: the power-on state, the
two outcomes of a load, the first step after a load, and the transitions of the engine state.
-/

namespace Sys2Proof.Machine

/-! ### Power-on and reset (rules R43, R210, R211) -/

theorem getElem_x_reset (r : RegIdx) : State.reset.x[r] = 0#16 := Vector.getElem_replicate _

theorem getElem_port_reset (k : Fin 4) : State.reset.port[k] = 0#16 := Vector.getElem_replicate _

theorem perform_reset (s : State) : perform .reset s = .next (State.reset, .done) := rfl

/-- Settles O1: the registers and ports are vectors of zeros, and memory lists no word. -/
theorem resetGivesPowerOnState : Obligations.ResetGivesPowerOnState :=
  ⟨Memory.read_nil, getElem_x_reset, rfl, rfl, rfl, rfl, getElem_port_reset, rfl, rfl, rfl, rfl,
    perform_reset⟩

/-! ### The two outcomes of a load (rules R213, R214) -/

section
variable {words : List Word} {base : Nat}

theorem perform_loadProgram_of_fits (h : base + words.length ≤ 32768) (s : State) :
    perform (.loadProgram words base) s = .next (loaded words base s, .done) :=
  congrArg Host.Outcome.next (if_pos h)

theorem perform_loadProgram_of_too_large (h : 32768 < base + words.length) (s : State) :
    perform (.loadProgram words base) s = .next (s, .programTooLarge) :=
  congrArg Host.Outcome.next (if_neg (Nat.not_le_of_lt h))

/-- The base of an image that fits is a 16-bit value, 32768 (for an empty image) included. -/
theorem toNat_pc_loaded (h : base + words.length ≤ 32768) (s : State) :
    (loaded words base s).pc.toNat = base :=
  Nat.mod_eq_of_lt (by omega)

theorem read_loaded_inside {i : Nat} (h : i < words.length) (s : State) :
    (loaded words base s).mem.read (base + i) = words[i] :=
  Memory.read_writeWords_inside words s.mem base i h

theorem read_loaded_outside {a : Nat} (h : a < base ∨ base + words.length ≤ a) (s : State) :
    (loaded words base s).mem.read a = s.mem.read a := by
  rcases h with hbelow | habove
  · exact Memory.read_writeWords_below words s.mem base a hbelow
  · exact Memory.read_writeWords_above words s.mem base a habove

/-- A load answers success with the loaded state, or ProgramTooLarge with the state as it was. -/
theorem perform_loadProgram_cases {s t : State} {r : Reply}
    (h : perform (.loadProgram words base) s = .next (t, r)) :
    (base + words.length ≤ 32768 ∧ r = .done ∧ t = loaded words base s) ∨
      (32768 < base + words.length ∧ r = .programTooLarge ∧ t = s) := by
  rcases Nat.lt_or_ge 32768 (base + words.length) with hlarge | hfit
  · cases (perform_loadProgram_of_too_large hlarge s).symm.trans h
    exact .inr ⟨hlarge, rfl, rfl⟩
  · cases (perform_loadProgram_of_fits hfit s).symm.trans h
    exact .inl ⟨hfit, rfl, rfl⟩
end

/-- Settles O3: outside memory and `pc`, the loaded state is the power-on state. -/
theorem loadProgramInitialises : Obligations.LoadProgramInitialises := fun words base s hfit =>
  ⟨loaded words base s, perform_loadProgram_of_fits hfit s, fun _ hi => read_loaded_inside hi s,
    fun _ ha => read_loaded_outside ha s, getElem_x_reset, rfl, rfl, getElem_port_reset, rfl, rfl,
    toNat_pc_loaded hfit s, rfl, rfl, rfl⟩

/-- Settles O4. -/
theorem loadProgramTooLargeChangesNothing : Obligations.LoadProgramTooLargeChangesNothing :=
  ⟨fun _ _ s hlarge => perform_loadProgram_of_too_large hlarge s, rfl⟩

/-! ### The first step after a load (rules R90, R213, R216) -/

/-- Settles O5: the words of the instruction stand in memory from `pc` on, and a Running machine runs the
instruction whose words stand there. -/
theorem loadedProgramRunsItsFirstInstruction : Obligations.LoadedProgramRunsItsFirstInstruction := by
  intro i rest base s t hfit h
  cases (perform_loadProgram_of_fits hfit s).symm.trans h
  have hpc : (loaded (encode i ++ rest) base s).pc.toNat = base := toNat_pc_loaded hfit s
  refine ⟨hpc, stepRunsTheDecodedInstruction.2 i _ rfl ?inside fun k hk => ?word⟩
  case inside =>
    rw [List.length_append, length_encode] at hfit
    omega
  case word =>
    have hk' : k < (encode i ++ rest).length := by
      rw [List.length_append]
      omega
    rw [hpc, read_loaded_inside hk' s, List.getElem_append_left hk]

/-! ### The transitions of the engine state (rule R185) -/

section
variable {s t : State}

/-- HALT, and HALT alone, takes a Running machine to Halted. -/
theorem halted_iff_of_step (hrun : s.es = .running) (h : step s = .next t) :
    t.es = .halted ↔ ∃ rest, decode (fetchWords s) = .ok (.halt, rest) := by
  constructor
  · intro ht
    obtain ⟨i, u, hdec, hu, rfl⟩ := eq_commit_of_step_completed hrun h (by simp [ht])
    rw [commit_es] at ht
    obtain rfl := hu.eq_halt (by simp [hrun]) ht
    exact (fetchDecode_ok_iff s .halt).1 hdec
  · rintro ⟨rest, hdec⟩
    cases ((step_of_decode_fetchWords hrun hdec).trans (exec_halt s)).symm.trans h
    rfl

theorem fc_ne_noFault_of_step_faulted (hrun : s.es = .running) (h : step s = .next t)
    (ht : t.es = .faulted) : t.fc ≠ .noFault := by
  obtain ⟨f, rfl⟩ := eq_raise_of_step_faulted hrun h ht
  exact cause_ne_noFault f

theorem fc_of_step_completed (hrun : s.es = .running) (h : step s = .next t) (ht : t.es ≠ .faulted) :
    t.fc = s.fc := by
  obtain ⟨i, u, -, hu, rfl⟩ := eq_commit_of_step_completed hrun h ht
  rw [commit_fc, hu.fc]
end

/-- Settles O54: a step by what it leads to, and each command by its reply. -/
theorem engineStateMachine : Obligations.EngineStateMachine := by
  refine ⟨fun s t hrun h => ⟨halted_iff_of_step hrun h, fc_ne_noFault_of_step_faulted hrun h,
    fc_of_step_completed hrun h⟩, fun s t hstopped h => ?idle, fun c s t r h => ⟨?reset, ?load⟩⟩
  case idle =>
    cases (step_of_not_running hstopped).symm.trans h
    rfl
  case reset =>
    rintro rfl
    cases (perform_reset s).symm.trans h
    rfl
  case load =>
    rintro words base rfl
    rcases perform_loadProgram_cases h with ⟨-, rfl, rfl⟩ | ⟨-, rfl, rfl⟩
    · exact ⟨fun _ => rfl, nofun⟩
    · exact ⟨nofun, fun _ => rfl⟩

end Sys2Proof.Machine
end
